-- ==== Sys2Proof/Word.lean ====
section
/-! DEFINITION. The word types of the block (10_state.md R20 to R48).  A frame integer is 32 bits
(30_encoding.md R105), a byte is 8 bits (00_scope.md R9), and an analog sample has `W_SAMPLE` bits with
`W_SAMPLE` at most 31 (92_eei_decisions.md D24), so 31 bits hold any sample.  The widths of the three
Timebase counters are parameters (D2), so a counter is a natural number that wraps at its parameter's
power of two (log 3). -/

namespace Sys2Proof

/-- A byte of the MIDI stream or of the blob: 8 bits (00_scope.md R9). -/
abbrev Byte := BitVec 8

/-- A 32-bit frame argument, `int32` of 30_encoding.md R105. -/
abbrev Word := BitVec 32

/-- An analog sample, unsigned; `W_SAMPLE <= 31` (92_eei_decisions.md D24). -/
abbrev Sample := BitVec 31

end Sys2Proof
end

