-- ==== Sys2Proof/Syntax.lean ====
section
/-! DEFINITION. The operations of the block, one constructor of `Instr` for each row of
spec/opcode_table.json, and the data that travels at the block's edges: frames and event records. -/

namespace Sys2Proof

/-- Every operation of the block: 24 MIDI byte classes (30_encoding.md R93), 6 command strobes (R103)
and 26 operations without an encoding (R109). -/
inductive Instr where
  /- channel status bytes: `c` is the channel field, the decoded channel is `c + 1` (R95) -/
  | noteOff (c : BitVec 4)
  | noteOn (c : BitVec 4)
  | polyPressure (c : BitVec 4)
  | controlChange (c : BitVec 4)
  | programChange (c : BitVec 4)
  | channelPressure (c : BitVec 4)
  | pitchBend (c : BitVec 4)
  /- system status bytes -/
  | vendorStart
  | unlistedF1
  | songPosition
  | songSelect
  | unlistedF4
  | unlistedF5
  | tuneRequest
  | vendorEnd
  | clock
  | unlistedF9
  | start
  | cont
  | stop
  | unlistedFD
  | activeSense
  | systemReset
  /- data byte: a 7-bit unsigned argument (R96) -/
  | data (d : BitVec 7)
  /- command strobes (44_command_strobes.md) -/
  | cmdReady
  | cmdLed (v : Word)
  | cmdShutdown
  | cmdNf
  | cmdGetknobs
  | cmdUnmatched
  /- Timebase (40_timebase.md) -/
  | tbStart
  | tbTick
  | tbSleep (n : Nat)
  | tbSwReset
  | tbSwRead
  /- decoder (41_midi_decoder.md) -/
  | mdInit (f : Byte)
  | mdByte (b : Byte)
  /- blob (42_live_state_blob.md) -/
  | blNoteOn (note : Byte)
  | blNoteOff (note : Byte)
  | blSetController (cc value : Byte)
  | blAdvanceSync
  | blResetSync
  | blSetProgram (value : Byte)
  | blSnapshot
  /- scanner (43_input_scanner.md) -/
  | scCycle
  | scKeyscan
  | scKnobLatch
  | scFsPoll (v : Sample)
  /- scheduler (45_scheduler.md) -/
  | schInit (initOk : Bool)
  | schBootIter
  | schRunIter
  | schMidiDrain
  | schCmdPoll
  | schScan
  | schGate
  | schShutdown
deriving DecidableEq, Repr

/-- The 24 classes of a MIDI byte, the rows of 30_encoding.md R93. -/
inductive ByteClass where
  | noteOff | noteOn | polyPressure | controlChange | programChange | channelPressure | pitchBend
  | vendorStart | unlistedF1 | songPosition | songSelect | unlistedF4 | unlistedF5 | tuneRequest
  | vendorEnd | clock | unlistedF9 | start | cont | stop | unlistedFD | activeSense | systemReset
  | data
deriving DecidableEq, Repr

/-- The column "kind" (and "args") of 30_encoding.md R93. -/
inductive ByteKind where
  | withArgs (n : Nat)
  | immediate
  | startPassthrough
  | endPassthrough
  | unlisted
  | data
deriving DecidableEq, Repr

/-- The six commands, the "closed enumeration" of 44_command_strobes.md R240. -/
inductive Command where
  | ready
  | led (v : Word)
  | shutdown
  | nf
  | getknobs
  | unmatched
deriving DecidableEq, Repr

/-- One argument of a frame: `int32` or `blob` (30_encoding.md R103, R105). -/
inductive Arg where
  | int (v : Word)
  | blob (bytes : List Byte)
deriving DecidableEq, Repr

/-- A frame, inbound or outbound: an address and its arguments (30_encoding.md R103, R105). -/
structure Frame where
  address : String
  args : List Arg
deriving DecidableEq, Repr

/-- The event records of 41_midi_decoder.md R147. -/
inductive MidiEvent where
  | noteOff (ch note vel : Byte)
  | noteOn (ch note vel : Byte)
  | polyPressure (ch a1 a2 : Byte)
  | controlChange (ch ctl val : Byte)
  | programChange (ch prog : Byte)
  | channelPressure (ch a1 : Byte)
  | pitchBend (ch a1 a2 : Byte)
  | songPosition (a1 a2 : Byte)
  | songSelect (a1 : Byte)
  | tuneRequest
  | clock
  | start
  | cont
  | stop
  | activeSense
  | systemReset
  | passthroughEnter
  | passthroughExit
deriving DecidableEq, Repr

end Sys2Proof
end

