-- ==== Sys2Proof/Config.lean ====
section
/-! DEFINITION. The configuration record of 00_scope.md R8 and the free values.  "The model takes the
whole table as one configuration record": one field, or one group of fields, for each row of that
table.  An entry whose ground is OPEN has no known value: it comes from an opaque constant.  Log
entries 1, 2, 3, 4, 12, 13, 36. -/

namespace Sys2Proof

/-- `ROUTES_ENABLED`: which of the four routes this build registers (44_command_strobes.md R240). -/
structure Routes where
  led : Bool
  shutdown : Bool
  nf : Bool
  getknobs : Bool
deriving DecidableEq, Repr, Inhabited

/-- The three indicator outputs (10_state.md R44). -/
structure Rgb where
  red : Bool
  green : Bool
  blue : Bool
deriving DecidableEq, Repr, Inhabited

/-- A call on the display sink (00_scope.md R7).  What a progress value draws is not modelled
(45_scheduler.md R262). -/
inductive DisplayCall where
  | clear
  | drawText (text : String) (x y : Nat)
  | refresh
  | drawProgress (value : Nat)
deriving DecidableEq, Repr, Inhabited

/-! ### The status map -/

/-- `ST_*`, `START_MARKER` and `END_MARKER`: which class each status value is.  "a model should take
the table as one constant so that it can be replaced" (92_eei_decisions.md D7, log 4). -/
structure StatusMap where
  /-- The classes of the high nibbles 8 to 14, in order (30_encoding.md R92). -/
  channel : List ByteClass
  /-- The classes of the bytes 0xF0 to 0xFF, in order: "the full byte is the class" (R92). -/
  system : List ByteClass
deriving DecidableEq, Repr, Inhabited

/-- The seven classes that carry a channel field (30_encoding.md R93). -/
def channelClasses : List ByteClass :=
  [.noteOff, .noteOn, .polyPressure, .controlChange, .programChange, .channelPressure, .pitchBend]

/-- The sixteen classes of a full byte (30_encoding.md R93). -/
def systemClasses : List ByteClass :=
  [.vendorStart, .unlistedF1, .songPosition, .songSelect, .unlistedF4, .unlistedF5, .tuneRequest,
    .vendorEnd, .clock, .unlistedF9, .start, .cont, .stop, .unlistedFD, .activeSense, .systemReset]

/-- The table of 30_encoding.md R93, "general knowledge G1" (log 4): 0x80 NOTE_OFF to 0xE0 PITCH_BEND,
0xF0 VENDOR_START to 0xFF SYSTEM_RESET. -/
def StatusMap.midi : StatusMap where
  channel := channelClasses
  system := systemClasses

/-- Each class of a status byte stands in the map exactly once (30_encoding.md R94: "the rows cover
every byte value exactly once"). -/
def StatusMap.wf (m : StatusMap) : Bool :=
  m.channel.isPerm channelClasses && m.system.isPerm systemClasses

/-! ### The record -/

/-- The parameters of 00_scope.md R8.  Constants of a device, not state (10_state.md R51). -/
structure Config where
  /-- `TIMER_FREQUENCY_HZ`; no rule depends on it (70_reset_and_hazards.md R355). -/
  timerFrequencyHz : Nat
  /-- `W_TICKS`. -/
  wTicks : Nat
  /-- `W_COUNTDOWN`. -/
  wCountdown : Nat
  /-- `W_STOPWATCH`. -/
  wStopwatch : Nat
  /-- `CHANNEL_FILTER_INIT`, one byte (D38). -/
  channelFilterInit : Byte
  /-- `ST_*`, `START_MARKER`, `END_MARKER`. -/
  status : StatusMap
  /-- `N_KEYS`. -/
  nKeys : Nat
  /-- `KEY_PIN[i]`: the (port, pin) wired to `pin[i]`; the block sees only `pin[i]` (R7). -/
  keyPin : List (Nat × Nat)
  /-- `KEY_PRESSED_LEVEL`. -/
  keyPressedLevel : Bool
  /-- `KEY_GENERATIONS`. -/
  keyGenerations : Nat
  /-- `KEY_PRESSED_VALUE`. -/
  keyPressedValue : Word
  /-- `KEY_RELEASED_VALUE`. -/
  keyReleasedValue : Word
  /-- `N_ADC_CHANNELS`. -/
  nAdc : Nat
  /-- `N_KNOBS`. -/
  nKnobs : Nat
  /-- `KNOB_MAP[k]` for `k` from 0 to `N_KNOBS - 1`. -/
  knobMap : List Nat
  /-- `FS_CHANNEL`. -/
  fsChannel : Nat
  /-- `W_SAMPLE`. -/
  wSample : Nat
  /-- `FS_LOW`. -/
  fsLow : Nat
  /-- `FS_HIGH`. -/
  fsHigh : Nat
  /-- `FS_SLOTS`. -/
  fsSlots : Nat
  /-- `GATE_THRESHOLD`. -/
  gateThreshold : Nat
  /-- `BOOT_STALL_THRESHOLD`. -/
  bootStallThreshold : Nat
  /-- `BOOT_PROGRESS_MAX`. -/
  bootProgressMax : Nat
  /-- `CC_SLOT[0..4]`. -/
  ccSlot : Vector Byte 5
  /-- `SYNC_MODULUS`. -/
  syncModulus : Nat
  /-- `BLOB_SIZE`. -/
  blobSize : Nat
  /-- `K_TRANSPORT_ARG`: "one int32, the same for all four" (D15).  Every value of 32 bits is admitted,
  a negative one too, although R105 calls every value sent non-negative: the model's choice, log 36. -/
  transportArg : Word
  /-- `HAS_DISPLAY`. -/
  hasDisplay : Bool
  /-- `ROUTES_ENABLED`. -/
  routes : Routes
  /-- `UPDATE_BLOB` (D12). -/
  updateBlob : Bool
  /-- `FORWARD_EVENTS` (D12). -/
  forwardEvents : Bool
  /-- `SNAPSHOT_CLEARS` (D19). -/
  snapshotClears : Bool
  /-- `RX_CAP`. -/
  rxCap : Nat
deriving DecidableEq, Repr, Inhabited

/-! ### The constraints -/

/-- The parameters that 00_scope.md R8 gives a value as "source" or "derived" have it: four
generations, the key values 100 and 0, six knobs, two foot-switch slots, 24 pulses, 23 bytes. -/
def Config.fixedValues (c : Config) : Bool :=
  decide (c.keyGenerations = 4) && decide (c.keyPressedValue = 100#32) &&
  decide (c.keyReleasedValue = 0#32) && decide (c.nKnobs = 6) && decide (c.fsSlots = 2) &&
  decide (c.syncModulus = 24) && decide (c.blobSize = 23)

/-- Every counter has at least one bit (DEDUCED: a counter that wraps has a width; log 2). -/
def Config.widthsLegal (c : Config) : Bool :=
  decide (1 ≤ c.wTicks) && decide (1 ≤ c.wCountdown) && decide (1 ≤ c.wStopwatch)

/-- The key matrix: `N_KEYS >= 1` (D20), a pin for each key. -/
def Config.keysLegal (c : Config) : Bool :=
  decide (1 ≤ c.nKeys) && decide (c.keyPin.length = c.nKeys)

/-- The analog inputs: at least `N_KNOBS` channels, a map of distinct channels that is not the identity,
a foot-switch channel, 1 to 31 bits (D24), `FS_LOW <= FS_HIGH` (R8). -/
def Config.analogLegal (c : Config) : Bool :=
  decide (c.nKnobs ≤ c.nAdc) && decide (c.knobMap.length = c.nKnobs) &&
  c.knobMap.all (fun k => decide (k < c.nAdc)) && decide c.knobMap.Nodup &&
  decide (c.knobMap ≠ List.range c.nKnobs) && decide (c.fsChannel < c.nAdc) &&
  decide (1 ≤ c.wSample) && decide (c.wSample ≤ 31) && decide (c.fsLow ≤ c.fsHigh)

/-- The whitelist: five distinct controller numbers in `0 .. 127` (D18). -/
def Config.slotsLegal (c : Config) : Bool :=
  c.ccSlot.toList.all (fun n => decide (n.toNat < 128)) && decide c.ccSlot.toList.Nodup

/-- The constraints the spec puts on the parameters: 00_scope.md R8, 92_eei_decisions.md D18, D20, D24,
`RX_CAP >= 1` (D30).  Where the spec states none (the value of `K_TRANSPORT_ARG`, an upper bound of
`N_KEYS`) none is put: log 36. -/
def Config.wf (c : Config) : Bool :=
  c.fixedValues && c.widthsLegal && c.status.wf && c.keysLegal && c.analogLegal && c.slotsLegal &&
  decide (1 ≤ c.rxCap)

/-! ### Devices -/

/-- The illustrative parameter values of 95_test_vectors.md ("None of these numbers is in the
source"), completed where that file gives no number, beside the values of 00_scope.md R8.  Used by
tests, and as the value that `Config.device` would take if the unknown one broke the spec's
constraints (log 2). -/
def Config.illustrative : Config where
  timerFrequencyHz := 1000
  wTicks := 32
  wCountdown := 32
  wStopwatch := 32
  channelFilterInit := 0
  status := .midi
  nKeys := 2
  keyPin := [(0, 0), (0, 1)]
  keyPressedLevel := true
  keyGenerations := 4
  keyPressedValue := 100
  keyReleasedValue := 0
  nAdc := 7
  nKnobs := 6
  knobMap := [3, 0, 1, 2, 5, 4]
  fsChannel := 6
  wSample := 12
  fsLow := 1000
  fsHigh := 3000
  fsSlots := 2
  gateThreshold := 30
  bootStallThreshold := 1000
  bootProgressMax := 5
  ccSlot := #v[21, 22, 23, 24, 25]
  syncModulus := 24
  blobSize := 23
  transportArg := 1
  hasDisplay := true
  routes := ⟨true, true, true, true⟩
  updateBlob := true
  forwardEvents := true
  snapshotClears := false
  rxCap := 64

/-- The unknown values of the OPEN parameters (00_scope.md R8): nothing can be proved of them. -/
opaque Config.raw : Config

/-- The unknown OPEN parameters, within the spec's constraints: every record that meets `Config.wf`
is a possible value (log 2). -/
def Config.legal : Config := if Config.raw.wf then Config.raw else Config.illustrative

/-- The device that `State.reset` is a state of: OPEN parameters unknown; the parameters to which
00_scope.md R8 gives a value at that value, be its ground the source, a derivation, the spec's decision
(the three widths D2, `UPDATE_BLOB` and `FORWARD_EVENTS` D12, `SNAPSHOT_CLEARS` D19) or its general
knowledge (the status map G1). -/
def Config.device : Config :=
  { Config.legal with
    wTicks := 32, wCountdown := 32, wStopwatch := 32, status := .midi, keyGenerations := 4
    keyPressedValue := 100, keyReleasedValue := 0, nKnobs := 6, fsSlots := 2, syncModulus := 24
    blobSize := 23, updateBlob := true, forwardEvents := true, snapshotClears := false }

/-- Free value: `rgb` after the shutdown routine, "any value" (93_implementation_defined.md U15). -/
opaque Config.freeRgb : Nat → Rgb

/-- Free value: what the shutdown routine draws on the display (45_scheduler.md R272, U15). -/
opaque Config.freeDisplay : Nat → List DisplayCall

/-- Free value: the content of `midi_rx` after a push onto a full buffer
(93_implementation_defined.md U13, D30). -/
opaque Config.freeRx : Nat → List Byte

end Sys2Proof
end

