-- ==== Sys2Proof/Machine/State.lean ====
section
/-! DEFINITION. The state of the block as plain data (10_state.md R20), why a step can stop, and the
state after reset (10_state.md R50). -/

namespace Sys2Proof.Machine

/-- `mode`: Normal or vendor passthrough (10_state.md R24). -/
inductive Mode where
  | normal
  | passthrough
deriving DecidableEq, Repr

/-- A debounced contact, key or foot switch: a key value is `KEY_RELEASED_VALUE` when released and
`KEY_PRESSED_VALUE` when pressed (10_state.md R34, R35), the foot switch is Released or Pressed (R39,
R40). -/
inductive Contact where
  | released
  | pressed
deriving DecidableEq, Repr

/-- The position inside SCH.INIT (45_scheduler.md R273): before `TB.START`, and between it and
`MD.INIT`, since a tick may fall "between any two foreground operations" (20_memory.md R72; log 6). -/
inductive InitStep where
  | start
  | decoder
deriving DecidableEq, Repr

/-- `step` inside a Boot-Wait iteration (10_state.md R41, 45_scheduler.md R261), with the model's
positions inside STALL_CHECK at the tick points of 20_memory.md R72 (2) and (3): `stallReset` after
`TB.SW_READ` has found the threshold exceeded, `stallShow` after `TB.SW_RESET` (log 6). -/
inductive BootStep where
  | framePoll
  | stallCheck
  | stallReset
  | stallShow
deriving DecidableEq, Repr

/-- `step` inside a Run iteration (10_state.md R41, 45_scheduler.md R264), with the model's positions
inside a step at the tick points of 20_memory.md R72 (log 6): `nfArm` in CMD_POLL after the
`TB.SW_RESET` of `CMD.NF` (2); `knobLatch` in SCAN between its two operations; `gateSend` in GATE after
`TB.SW_READ` has found the threshold exceeded (3). -/
inductive RunStep where
  | midiDrain
  | cmdPoll
  | nfArm
  | scan
  | knobLatch
  | gate
  | gateSend
deriving DecidableEq, Repr

/-- The block's program counter: "`phase` and `step` together" (10_state.md R41).  `Halted` has no
position inside it. -/
inductive Pc where
  | init (step : InitStep)
  | bootWait (step : BootStep)
  | run (step : RunStep)
  | halted
deriving DecidableEq, Repr

/-- `phase` (10_state.md R41). -/
inductive Phase where
  | init
  | bootWait
  | run
  | halted
deriving DecidableEq, Repr

/-- The phase a program counter is in. -/
def Pc.phase : Pc → Phase
  | .init _ => .init
  | .bootWait _ => .bootWait
  | .run _ => .run
  | .halted => .halted

/-- `halt_reason` (10_state.md R41). -/
inductive HaltReason where
  | none
  | initFailure
  | shutdown
deriving DecidableEq, Repr

/-- The error classes of 60_exceptions.md R300. -/
inductive ErrorClass where
  | malformedFrame
  | outOfRange
  | initFailure
  | shutdown
deriving DecidableEq, Repr

/-- What the passthrough sink receives: the entry hook, forwarded bytes, the exit hook
(41_midi_decoder.md R142, R145, R148). -/
inductive SinkItem where
  | enter
  | byte (b : Byte)
  | exit
deriving DecidableEq, Repr

/-- The value an operation returned to its caller: `TB.SW_READ` returns the stopwatch
(40_timebase.md R125), `BL.SNAPSHOT` 23 bytes (42_live_state_blob.md R197). -/
inductive Ret where
  | none
  | count (v : Nat)
  | bytes (b : List Byte)
deriving DecidableEq, Repr

/-- A move of one agent, in the order the schedule gives them (00_scope.md R6, log 5). -/
inductive Event where
  /-- `FG` takes its next atomic action -/
  | go
  /-- one `tick` event (60_exceptions.md R291) -/
  | tick
  /-- `ENV.MIDI_PUSH(b)` -/
  | midiPush (b : Byte)
  /-- `ENV.FRAME_PUSH(f)` -/
  | framePush (f : Frame)
  /-- `ENV.PINS(v)` -/
  | pins (levels : List Bool)
  /-- `ENV.ADC_BATCH(s)`: the sample buffer is overwritten and the batch-complete flag set -/
  | adcBatch (samples : List Sample)
  /-- one sample is rewritten, with no batch notice: "The environment may rewrite any element at any
  time" (20_memory.md R63) -/
  | adcWrite (channel : Nat) (v : Sample)
deriving DecidableEq, Repr

/-- The blob's bytes as (address, byte) cells; addresses are the indices 0 to 22 of 10_state.md R31.
An address that is not listed reads as 0x00, the reset content of 10_state.md R50. -/
abbrev Memory := List Host.Cell

/-- The canonical form from address `lo` up: addresses strictly rising, and no cell that holds what an
unlisted address reads as. -/
def Memory.wfFrom (lo : Nat) : Memory → Bool
  | [] => true
  | (a, v) :: rest => decide (lo ≤ a) && decide (v ≠ 0#8) && Memory.wfFrom (a + 1) rest

/-- The canonical form of the blob's cells. -/
def Memory.wf (m : Memory) : Bool := Memory.wfFrom 0 m

/-- Every listed address is one of the first `size` (20_memory.md R64: the blob has `BLOB_SIZE` bytes). -/
def Memory.within (size : Nat) (m : Memory) : Bool := m.all (fun c => decide (c.1 < size))

/-- Why the machine stops with a fault.  No operation of the block traps (60_exceptions.md R305). -/
inductive Fault where
  /-- Raised by `SC.KNOB_LATCH` when `KNOB_MAP` or `FS_CHANNEL` names a channel the sample buffer does
  not have.  Safe: a configuration that meets D24 never raises it (log 27). -/
  | absentChannel
deriving DecidableEq, Repr

/-- Why a step gives no next state. -/
inductive Refusal where
  /-- Raised by `exec` for an instruction without a meaning.  Safe: nothing is claimed of it. -/
  | notModelled (mnemonic : String)
  /-- Raised by `TB.SLEEP n` with `n >= 2^W_COUNTDOWN`: "outside the operand's range and a model
  refuses it" (40_timebase.md R123).  Safe. -/
  | sleepOperandOutOfRange (n : Nat)
  /-- Raised by `step` for a scheduled input that the ports cannot carry: a pin vector of another
  length than `N_KEYS`, a batch of another length than `N_ADC_CHANNELS`, a channel that does not
  exist, a sample wider than `W_SAMPLE` bits (00_scope.md R7).  Safe (log 27). -/
  | impossibleInput
deriving DecidableEq, Repr

/-- The state of the block: every row of 10_state.md R20, the output sequences of 00_scope.md R7, and
the model's own fields (the last group). -/
structure State where
  /- U1 Timebase -/
  /-- `W_TICKS` bits: below `2^W_TICKS` (10_state.md R21; `TimebaseInv`, log 3). -/
  ticks : Nat
  /-- `W_COUNTDOWN` bits (10_state.md R22). -/
  countdown : Nat
  /-- `W_STOPWATCH` bits (10_state.md R23). -/
  stopwatch : Nat
  tbArmed : Bool
  /-- `FG` is inside the busy-wait of `TB.SLEEP` (40_timebase.md R123). -/
  sleeping : Bool
  /- U2 MIDI Decoder -/
  mode : Mode
  pendingEvent : Option Byte
  bytesNeeded : Nat
  bytesReceived : Nat
  lastDataByte : Byte
  channelFilter : Byte
  lastStatusSent : Option Byte
  sendFullCommands : Bool
  /- U3 Live-State Blob -/
  blob : Memory
  /- U4 Input Scanner -/
  keyGen : List (List Contact)
  keyGeneration : Nat
  keyLast : List Contact
  knob : List Sample
  fsCandidate : Contact
  fsBuf : List Contact
  fsSlot : Nat
  fsLast : Contact
  /- U5, U6 router and scheduler -/
  pc : Pc
  haltReason : HaltReason
  snapshotPending : Bool
  bootProgress : Nat
  rgb : Rgb
  /- queues, inputs and outputs at the edge -/
  midiRx : List Byte
  cmdRx : List Frame
  out : List Frame
  adcSample : List Sample
  adcBatchComplete : Bool
  pins : List Bool
  initOk : Bool
  passthroughSink : List SinkItem
  display : List DisplayCall
  /-- The event records the decoder has produced, oldest first (41_midi_decoder.md R147). -/
  fired : List MidiEvent
  /- the model's own fields -/
  /-- The configuration record; no operation writes it (log 1). -/
  cfg : Config
  /-- The moves of the agents still to come (log 5). -/
  sched : List Event
  /-- What the last result-returning operation returned (log 25). -/
  ret : Ret
  /-- How many free values have been drawn (log 31). -/
  freeCount : Nat
deriving DecidableEq, Repr

/-- `phase` (10_state.md R41). -/
def State.phase (s : State) : Phase := s.pc.phase

/-- The power-on state of a device with configuration `c`: the table of 10_state.md R50, and for what
that table leaves to the environment or does not give, the values of log 9, 10, 14, 15. -/
def State.resetOf (c : Config) : State where
  ticks := 0
  countdown := 0
  stopwatch := 0
  tbArmed := false
  sleeping := false
  mode := .normal
  pendingEvent := none
  bytesNeeded := 0
  bytesReceived := 0
  lastDataByte := 0
  channelFilter := c.channelFilterInit
  lastStatusSent := none
  sendFullCommands := false
  blob := []
  keyGen := List.replicate c.keyGenerations (List.replicate c.nKeys .released)
  keyGeneration := 0
  keyLast := List.replicate c.nKeys .released
  knob := List.replicate c.nKnobs 0
  fsCandidate := .released
  fsBuf := List.replicate c.fsSlots .released
  fsSlot := 0
  fsLast := .released
  pc := .init .start
  haltReason := .none
  snapshotPending := false
  bootProgress := 0
  rgb := ⟨false, false, false⟩
  midiRx := []
  cmdRx := []
  out := []
  adcSample := List.replicate c.nAdc 0
  adcBatchComplete := false
  pins := List.replicate c.nKeys false
  initOk := true
  passthroughSink := []
  display := []
  fired := []
  cfg := c
  sched := []
  ret := .none
  freeCount := 0

/-- The machine right after reset: a device whose OPEN parameters are unknown (log 1, 2). -/
def State.reset : State := State.resetOf Config.device

end Sys2Proof.Machine
end

