-- ==== Sys2Proof/Machine/Flags.lean ====
section
/-! DEFINITION. The flags of 10_state.md R49 that an operation sets, clears or tests.  There are no
arithmetic condition codes.  `keyLast`, `fsCandidate`, `fsBuf`, `fsLast` are computed in Scanner. -/

namespace Sys2Proof.Machine

/-- Set `tb_armed` (40_timebase.md R121). -/
def armTimebase (s : State) : State := { s with tbArmed := true }

/-- Set `snapshot_pending` (44_command_strobes.md R244). -/
def armSnapshot (s : State) : State := { s with snapshotPending := true }

/-- Clear `snapshot_pending` (45_scheduler.md R270). -/
def clearSnapshot (s : State) : State := { s with snapshotPending := false }

/-- Set `adc_batch_complete`, by the environment (10_state.md R38). -/
def setBatchComplete (s : State) : State := { s with adcBatchComplete := true }

/-- Clear `adc_batch_complete` (43_input_scanner.md R215). -/
def clearBatchComplete (s : State) : State := { s with adcBatchComplete := false }

end Sys2Proof.Machine
end

