-- ==== Sys2Proof/Machine/Ops.lean ====
section
/-! DEFINITION. The shared operations: reading and writing a byte of the blob, appending to the output
sequences, drawing a free value, taking the tick interrupt (the block's only exception) and returning
from it, and the actions of the error classes. -/

namespace Sys2Proof.Machine

/-! ### The blob's bytes (20_memory.md R64) -/

/-- The byte at an address: an unlisted address reads as 0x00. -/
def Memory.read : Memory → Nat → Byte
  | [], _ => 0#8
  | (b, v) :: rest, a => if a = b then v else Memory.read rest a

/-- The cells without the ones of an address. -/
def Memory.remove (a : Nat) : Memory → Memory
  | [] => []
  | (b, w) :: rest => if b = a then Memory.remove a rest else (b, w) :: Memory.remove a rest

/-- Put a cell before the first one of a higher address. -/
def Memory.insert (a : Nat) (v : Byte) : Memory → Memory
  | [] => [(a, v)]
  | (b, w) :: rest => if a < b then (a, v) :: (b, w) :: rest else (b, w) :: Memory.insert a v rest

/-- Write one byte, keeping the canonical form: writing what an unlisted address reads as removes the
cell. -/
def Memory.write (m : Memory) (a : Nat) (v : Byte) : Memory :=
  if v = 0#8 then Memory.remove a m else Memory.insert a v (Memory.remove a m)

/-- `MemRead(blob, i, 1)` (00_scope.md R10). -/
def blobRead (s : State) (i : Nat) : Byte := Memory.read s.blob i

/-- `MemWrite(blob, i, 1, v)` (00_scope.md R10). -/
def blobWrite (i : Nat) (v : Byte) (s : State) : State :=
  { s with blob := Memory.write s.blob i v }

/-- `MemRead(blob, 0, 23)`: the `BLOB_SIZE` bytes in index order (42_live_state_blob.md R197). -/
def blobBytes (s : State) : List Byte := (List.range s.cfg.blobSize).map (blobRead s)

/-- `MemWrite(blob, 0, 23, 0)` (42_live_state_blob.md R197). -/
def blobZero (s : State) : State := { s with blob := [] }

/-! ### Output sequences -/

/-- `emit`: append a frame to `out`; it always succeeds (20_memory.md R66, D31). -/
def emit (f : Frame) (s : State) : State := { s with out := s.out ++ [f] }

/-- Several `emit`s in order. -/
def emitAll (fs : List Frame) (s : State) : State := { s with out := s.out ++ fs }

/-- Append to the passthrough sink (41_midi_decoder.md R142). -/
def toSink (x : SinkItem) (s : State) : State :=
  { s with passthroughSink := s.passthroughSink ++ [x] }

/-- Calls on the display sink, made only by a build that has a display (00_scope.md R8
`HAS_DISPLAY`, log 14). -/
def onDisplay (calls : List DisplayCall) (s : State) : State :=
  if s.cfg.hasDisplay then { s with display := s.display ++ calls } else s

/-! ### Free values -/

/-- Count one more draw, so that the next free value is another one (log 31). -/
def countDraw (s : State) : State := { s with freeCount := s.freeCount + 1 }

/-! ### The tick interrupt (60_exceptions.md R290 to R295) -/

/-- The handler's three counter updates: the countdown saturates at zero, the other two wrap at their
widths (40_timebase.md R122, 92_eei_decisions.md D2, D3, D4). -/
def tickCounters (s : State) : State :=
  { s with
    countdown := if s.countdown ≠ 0 then s.countdown - 1 else s.countdown
    stopwatch := (s.stopwatch + 1) % 2 ^ s.cfg.wStopwatch
    ticks := (s.ticks + 1) % 2 ^ s.cfg.wTicks }

/-- Taking a tick: enabled once `TB.START` has armed it; before that `IRQ` has no step
(40_timebase.md R121, 60_exceptions.md R291).  There is no saved state, vector, stack, mode bit or mask
to write (R294). -/
def takeTick (s : State) : State := if s.tbArmed then tickCounters s else s

/-- The return: "to the point of interruption with no effect but on the counters"
(60_exceptions.md R295). -/
def returnFromTick (s : State) : State := s

/-! ### Error classes -/

/-- `raise X`: the action of the class (60_exceptions.md R300).  The first two discard, clamp or ignore
and continue; the last two halt. -/
def raise : ErrorClass → State → State
  | .malformedFrame, s => s
  | .outOfRange, s => s
  | .initFailure, s => { s with pc := .halted, haltReason := .initFailure }
  | .shutdown, s => { s with pc := .halted, haltReason := .shutdown }

/-! ### Sequencing -/

/-- Do `f` in the state the first operation leaves; a fault or a refusal of the first stands. -/
def andThen (o : Host.Outcome State Fault Refusal)
    (f : State → Host.Outcome State Fault Refusal) : Host.Outcome State Fault Refusal :=
  match o with
  | .next s => f s
  | .fault r => .fault r
  | .refused r => .refused r

end Sys2Proof.Machine
end

