-- ==== Sys2Proof/Machine/Environment.lean ====
section
/-! DEFINITION. The moves of `IRQ` and of the environment (00_scope.md R6, R7). -/

namespace Sys2Proof.Machine

/-- A sample of `W_SAMPLE` bits. -/
def sampleFits (c : Config) (v : Sample) : Bool := decide (v.toNat < 2 ^ c.wSample)

/-- `ENV.MIDI_PUSH(b)`: append at the tail (20_memory.md R61).  A push onto a full buffer has
"unspecified effect on the buffer's content": any content within the capacity (D30, U13, log 13). -/
def pushMidi (b : Byte) (s : State) : State :=
  if s.midiRx.length < s.cfg.rxCap then { s with midiRx := s.midiRx ++ [b] }
  else countDraw { s with midiRx := (Config.freeRx s.freeCount).take s.cfg.rxCap }

/-- One move of `IRQ` or of the environment.  A tick is taken at once, one `TB.TICK` for each event
(60_exceptions.md R291); the others change the ports of 00_scope.md R7. -/
def environment (e : Event) (s : State) : Host.Outcome State Fault Refusal :=
  match e with
  | .go => .next s
  | .tick => .next (returnFromTick (takeTick s))
  | .midiPush b => .next (pushMidi b s)
  | .framePush f => .next { s with cmdRx := s.cmdRx ++ [f] }
  | .pins levels =>
    if levels.length = s.cfg.nKeys then .next { s with pins := levels }
    else .refused .impossibleInput
  | .adcBatch samples =>
    if samples.length = s.cfg.nAdc ∧ samples.all (sampleFits s.cfg) = true then
      .next (setBatchComplete { s with adcSample := samples })
    else .refused .impossibleInput
  | .adcWrite channel v =>
    if channel < s.cfg.nAdc ∧ sampleFits s.cfg v = true then
      .next { s with adcSample := s.adcSample.set channel v }
    else .refused .impossibleInput

end Sys2Proof.Machine
end

