-- ==== Sys2Proof/Decode.lean ====
section
/-! DEFINITION. Decoding: a MIDI byte to its row of 30_encoding.md R93, an inbound frame to its
command (44_command_strobes.md R240); then the encoder.  The numeric values of the status bytes are
the spec's general knowledge G1 (92_eei_decisions.md D7), log 4; they are read from the status map, a
parameter. -/

namespace Sys2Proof

/-! ### MIDI bytes -/

/-- The position of a class in a list of classes. -/
def positionOf (k : ByteClass) : List ByteClass → Nat
  | [] => 0
  | x :: rest => if x = k then 0 else positionOf k rest + 1

/-- The status byte of a channel class: the row's high nibble, the channel field in the low nibble
(30_encoding.md R90, R93). -/
def StatusMap.channelByte (m : StatusMap) (k : ByteClass) (c : BitVec 4) : Byte :=
  BitVec.ofNat 4 (8 + positionOf k m.channel) ++ c

/-- The status byte of a class of a full byte (30_encoding.md R92, R93). -/
def StatusMap.systemByte (m : StatusMap) (k : ByteClass) : Byte :=
  0xF#4 ++ BitVec.ofNat 4 (positionOf k m.system)

/-- `END_MARKER` (00_scope.md R8, 30_encoding.md R93); `START_MARKER` is the byte of `vendorStart` in
the same way. -/
def StatusMap.endMarker (m : StatusMap) : Byte := m.systemByte .vendorEnd

/-- 30_encoding.md R94: "test bit 7; if clear the byte is DATA; else if the high nibble is not 0xF
select the row by the high nibble; else select the row by the whole byte".  The defaults are never
used: the map of a legal device has 7 and 16 entries. -/
def classify (m : StatusMap) (b : Byte) : ByteClass :=
  if b.msb = false then .data
  else if b.extractLsb' 4 4 ≠ 0xF#4 then
    m.channel.getD ((b.extractLsb' 4 4).toNat - 8) .noteOff
  else m.system.getD (b.extractLsb' 0 4).toNat .systemReset

/-- The columns "args" and "kind" of 30_encoding.md R93. -/
def ByteClass.kind : ByteClass → ByteKind
  | .noteOff => .withArgs 2
  | .noteOn => .withArgs 2
  | .polyPressure => .withArgs 2
  | .controlChange => .withArgs 2
  | .programChange => .withArgs 1
  | .channelPressure => .withArgs 1
  | .pitchBend => .withArgs 2
  | .vendorStart => .startPassthrough
  | .unlistedF1 => .unlisted
  | .songPosition => .withArgs 2
  | .songSelect => .withArgs 1
  | .unlistedF4 => .unlisted
  | .unlistedF5 => .unlisted
  | .tuneRequest => .immediate
  | .vendorEnd => .endPassthrough
  | .clock => .immediate
  | .unlistedF9 => .unlisted
  | .start => .immediate
  | .cont => .immediate
  | .stop => .immediate
  | .unlistedFD => .unlisted
  | .activeSense => .immediate
  | .systemReset => .immediate
  | .data => .data

/-- The row of the opcode table that a byte is, its operand read from the row's field
(30_encoding.md R93, R95, R96). -/
def decodeByte (m : StatusMap) (b : Byte) : Instr :=
  match classify m b with
  | .noteOff => .noteOff (b.extractLsb' 0 4)
  | .noteOn => .noteOn (b.extractLsb' 0 4)
  | .polyPressure => .polyPressure (b.extractLsb' 0 4)
  | .controlChange => .controlChange (b.extractLsb' 0 4)
  | .programChange => .programChange (b.extractLsb' 0 4)
  | .channelPressure => .channelPressure (b.extractLsb' 0 4)
  | .pitchBend => .pitchBend (b.extractLsb' 0 4)
  | .vendorStart => .vendorStart
  | .unlistedF1 => .unlistedF1
  | .songPosition => .songPosition
  | .songSelect => .songSelect
  | .unlistedF4 => .unlistedF4
  | .unlistedF5 => .unlistedF5
  | .tuneRequest => .tuneRequest
  | .vendorEnd => .vendorEnd
  | .clock => .clock
  | .unlistedF9 => .unlistedF9
  | .start => .start
  | .cont => .cont
  | .stop => .stop
  | .unlistedFD => .unlistedFD
  | .activeSense => .activeSense
  | .systemReset => .systemReset
  | .data => .data (b.extractLsb' 0 7)

/-- Why a byte list has no first instruction: it is empty.  Every byte has a row
(30_encoding.md R94). -/
inductive DecodeError where
  | noByte
deriving DecidableEq, Repr

/-- What decoding a byte list answers: the instruction and the bytes after it, or a rejection. -/
inductive DecodeResult where
  | ok (i : Instr) (rest : List Byte)
  | rejected (why : DecodeError)
deriving DecidableEq, Repr

/-- Decode the first instruction of a byte stream: one byte is one row (30_encoding.md R94, R102). -/
def decode (m : StatusMap) (bytes : List Byte) : DecodeResult :=
  match bytes with
  | [] => .rejected .noByte
  | b :: rest => .ok (decodeByte m b) rest

/-- The bytes of an instruction whose bits the opcode table numbers as `w`: every encoded row is one
byte; a row of 0 bits has no encoding and no bytes (30_encoding.md R109). -/
def tableBytes (nbits w : Nat) : List Byte :=
  if nbits = 0 then [] else [BitVec.ofNat 8 (w % 2 ^ nbits)]

/-- The instruction the decoder reads from the table's bits, with the status map of 30_encoding.md R93. -/
def decodeTableWord (nbits w : Nat) : Option Instr :=
  match decode .midi (tableBytes nbits w) with
  | .ok i _ => some i
  | .rejected _ => none

/-! ### Inbound frames -/

/-- The command of a frame removed in `BootWait`: the ready signal is the address `/ready`, its
arguments ignored; every other frame is discarded (44_command_strobes.md R241, R248, D26). -/
def bootCommand (f : Frame) : Command :=
  if f.address = "/ready" then .ready else .unmatched

/-- `/led` needs an integer first argument; further arguments are ignored and a frame without one is
treated as unmatched (44_command_strobes.md R242, R247, D25). -/
def ledCommand : List Arg → Command
  | .int v :: _ => .led v
  | .blob _ :: _ => .unmatched
  | [] => .unmatched

/-- The route lookup of 44_command_strobes.md R240: exact match on the whole address among the enabled
routes; anything else is unmatched. -/
def runCommand (r : Routes) (f : Frame) : Command :=
  if f.address = "/led" ∧ r.led = true then ledCommand f.args
  else if f.address = "/shutdown" ∧ r.shutdown = true then .shutdown
  else if f.address = "/nf" ∧ r.nf = true then .nf
  else if f.address = "/getknobs" ∧ r.getknobs = true then .getknobs
  else .unmatched

/-- The row of the opcode table that a command is. -/
def Command.instr : Command → Instr
  | .ready => .cmdReady
  | .led v => .cmdLed v
  | .shutdown => .cmdShutdown
  | .nf => .cmdNf
  | .getknobs => .cmdGetknobs
  | .unmatched => .cmdUnmatched

/-! ### The encoder -/

/-- The bytes of an instruction under a status map (30_encoding.md R93); the rows of R103 and R109 have
no bit encoding and no bytes. -/
def encode (m : StatusMap) (i : Instr) : List Byte :=
  match i with
  | .noteOff c => [m.channelByte .noteOff c]
  | .noteOn c => [m.channelByte .noteOn c]
  | .polyPressure c => [m.channelByte .polyPressure c]
  | .controlChange c => [m.channelByte .controlChange c]
  | .programChange c => [m.channelByte .programChange c]
  | .channelPressure c => [m.channelByte .channelPressure c]
  | .pitchBend c => [m.channelByte .pitchBend c]
  | .vendorStart => [m.systemByte .vendorStart]
  | .unlistedF1 => [m.systemByte .unlistedF1]
  | .songPosition => [m.systemByte .songPosition]
  | .songSelect => [m.systemByte .songSelect]
  | .unlistedF4 => [m.systemByte .unlistedF4]
  | .unlistedF5 => [m.systemByte .unlistedF5]
  | .tuneRequest => [m.systemByte .tuneRequest]
  | .vendorEnd => [m.systemByte .vendorEnd]
  | .clock => [m.systemByte .clock]
  | .unlistedF9 => [m.systemByte .unlistedF9]
  | .start => [m.systemByte .start]
  | .cont => [m.systemByte .cont]
  | .stop => [m.systemByte .stop]
  | .unlistedFD => [m.systemByte .unlistedFD]
  | .activeSense => [m.systemByte .activeSense]
  | .systemReset => [m.systemByte .systemReset]
  | .data d => [d.setWidth 8]
  | .cmdReady => []
  | .cmdLed _ => []
  | .cmdShutdown => []
  | .cmdNf => []
  | .cmdGetknobs => []
  | .cmdUnmatched => []
  | .tbStart => []
  | .tbTick => []
  | .tbSleep _ => []
  | .tbSwReset => []
  | .tbSwRead => []
  | .mdInit _ => []
  | .mdByte _ => []
  | .blNoteOn _ => []
  | .blNoteOff _ => []
  | .blSetController _ _ => []
  | .blAdvanceSync => []
  | .blResetSync => []
  | .blSetProgram _ => []
  | .blSnapshot => []
  | .scCycle => []
  | .scKeyscan => []
  | .scKnobLatch => []
  | .scFsPoll _ => []
  | .schInit _ => []
  | .schBootIter => []
  | .schRunIter => []
  | .schMidiDrain => []
  | .schCmdPoll => []
  | .schScan => []
  | .schGate => []
  | .schShutdown => []

/-- The frame that selects a command (30_encoding.md R103); `unmatched` has no address of its own. -/
def Command.frame? : Command → Option Frame
  | .ready => some ⟨"/ready", []⟩
  | .led v => some ⟨"/led", [.int v]⟩
  | .shutdown => some ⟨"/shutdown", []⟩
  | .nf => some ⟨"/nf", []⟩
  | .getknobs => some ⟨"/getknobs", []⟩
  | .unmatched => none

/-! ### The text syntax of MIDI programs (30_encoding.md R107, R108) -/

/-- A line of a MIDI program: a mnemonic of 30_encoding.md R93 with its data operands (the channel
operand `ch` of a channel mnemonic is the row's field `ch - 1`), a running-status continuation
`RUN d1 [, d2]`, or a raw `BYTE`. -/
inductive Line where
  | message (status : Instr) (args : List (BitVec 7))
  | run (args : List (BitVec 7))
  | byte (b : Byte)
deriving DecidableEq, Repr

/-- "The line assembles to the status byte match | (ch - 1) followed by the operands in order"; `RUN`
"assembles to the data bytes alone" (30_encoding.md R107, R108). -/
def Line.assemble (m : StatusMap) : Line → List Byte
  | .message status args => encode m status ++ args.map (fun d => d.setWidth 8)
  | .run args => args.map (fun d => d.setWidth 8)
  | .byte b => [b]

/-- The bytes of a program: its lines in order. -/
def assemble (m : StatusMap) (p : List Line) : List Byte := p.flatMap (Line.assemble m)

end Sys2Proof
end

