-- ==== Sys2Proof/Machine/Operands.lean ====
section
/-! DEFINITION. Operand forms: how a channel, an argument, a colour and a contact are read and how they
are carried in frames (30_encoding.md R95 to R97, R104 to R106), and which event record a complete
message is (41_midi_decoder.md R147). -/

namespace Sys2Proof.Machine

/-- "decode the channel as `(pending_event & 0x0F) + 1`" (30_encoding.md R95). -/
def channelOf (e : Byte) : Byte := (e &&& 0x0F#8) + 1#8

/-- `accept(e, ch)`: `channel_filter = 0 or channel_filter = ch or e >= 0xF0` (41_midi_decoder.md R150). -/
def accept (filter e ch : Byte) : Bool :=
  filter == 0#8 || filter == ch || decide (0xF0#8 ≤ e)

/-- A byte as a frame integer, widened with zeros (30_encoding.md R96, R105). -/
def byteArg (b : Byte) : Arg := .int (b.setWidth 32)

/-- A sample as a frame integer, zero-extended to 32 bits (45_scheduler.md R275, D24). -/
def sampleArg (v : Sample) : Arg := .int (v.setWidth 32)

/-- A key state in a frame: `KEY_RELEASED_VALUE` or `KEY_PRESSED_VALUE`, 0 or 100 (30_encoding.md R106,
00_scope.md R8). -/
def keyArg (c : Config) : Contact → Arg
  | .released => .int c.keyReleasedValue
  | .pressed => .int c.keyPressedValue

/-- The foot switch in a frame: 1 for pressed, 0 for released (30_encoding.md R106, D23). -/
def fsArg : Contact → Arg
  | .released => .int 0#32
  | .pressed => .int 1#32

/-- The colour of `/led v`: the low three bits of `v`, "bit 0 = blue, bit 1 = green, bit 2 = red"
(30_encoding.md R104, 44_command_strobes.md R242). -/
def ledColour (v : Word) : Rgb :=
  { red := v.getLsbD 2, green := v.getLsbD 1, blue := v.getLsbD 0 }

/-- The event record of a zero-argument class (41_midi_decoder.md R147); the other classes fire no
event on their status byte. -/
def immediateEvent : ByteClass → Option MidiEvent
  | .tuneRequest => some .tuneRequest
  | .clock => some .clock
  | .start => some .start
  | .cont => some .cont
  | .stop => some .stop
  | .activeSense => some .activeSense
  | .systemReset => some .systemReset
  | .noteOff => none
  | .noteOn => none
  | .polyPressure => none
  | .controlChange => none
  | .programChange => none
  | .channelPressure => none
  | .pitchBend => none
  | .vendorStart => none
  | .unlistedF1 => none
  | .songPosition => none
  | .songSelect => none
  | .unlistedF4 => none
  | .unlistedF5 => none
  | .vendorEnd => none
  | .unlistedF9 => none
  | .unlistedFD => none
  | .data => none

/-- The event record of a completed message of a class with arguments: channel `ch`, first argument
`a1` (used by two-argument classes), completing byte `b` (41_midi_decoder.md R147).  A note-on with
velocity 0 is a note-off (30_encoding.md R97).  A class without arguments is never pending
(10_state.md R26) and has no record. -/
def completedEvent (ch a1 b : Byte) : ByteClass → Option MidiEvent
  | .noteOff => some (.noteOff ch a1 b)
  | .noteOn => if b = 0#8 then some (.noteOff ch a1 0#8) else some (.noteOn ch a1 b)
  | .polyPressure => some (.polyPressure ch a1 b)
  | .controlChange => some (.controlChange ch a1 b)
  | .programChange => some (.programChange ch b)
  | .channelPressure => some (.channelPressure ch b)
  | .pitchBend => some (.pitchBend ch a1 b)
  | .songPosition => some (.songPosition a1 b)
  | .songSelect => some (.songSelect b)
  | .tuneRequest => none
  | .clock => none
  | .start => none
  | .cont => none
  | .stop => none
  | .activeSense => none
  | .systemReset => none
  | .vendorStart => none
  | .unlistedF1 => none
  | .unlistedF4 => none
  | .unlistedF5 => none
  | .vendorEnd => none
  | .unlistedF9 => none
  | .unlistedFD => none
  | .data => none

/-- The outbound frame of a meaningful event (41_midi_decoder.md R176, 30_encoding.md R105); `k` is
`K_TRANSPORT_ARG`.  The other events have no frame. -/
def eventFrame (k : Word) : MidiEvent → Option Frame
  | .noteOn ch n v => some ⟨"/mnon", [byteArg ch, byteArg n, byteArg v]⟩
  | .noteOff ch n v => some ⟨"/mnoff", [byteArg ch, byteArg n, byteArg v]⟩
  | .controlChange ch c v => some ⟨"/mcc", [byteArg ch, byteArg c, byteArg v]⟩
  | .programChange ch p => some ⟨"/mpc", [byteArg ch, byteArg p]⟩
  | .clock => some ⟨"/msync", [.int k]⟩
  | .start => some ⟨"/mstart", [.int k]⟩
  | .cont => some ⟨"/mcont", [.int k]⟩
  | .stop => some ⟨"/mstop", [.int k]⟩
  | .polyPressure _ _ _ => none
  | .channelPressure _ _ => none
  | .pitchBend _ _ _ => none
  | .songPosition _ _ => none
  | .songSelect _ => none
  | .tuneRequest => none
  | .activeSense => none
  | .systemReset => none
  | .passthroughEnter => none
  | .passthroughExit => none

/-- `/key(index, 0|100)` (30_encoding.md R105, R106).  The index is carried modulo 2^32: D20 puts no
upper bound on `N_KEYS` and R105 gives the argument 32 bits; the model's choice, log 36. -/
def keyFrame (c : Config) (index : Nat) (v : Contact) : Frame :=
  ⟨"/key", [.int (BitVec.ofNat 32 index), keyArg c v]⟩

/-- `/fs(0|1)` (30_encoding.md R105, R106). -/
def fsFrame (v : Contact) : Frame := ⟨"/fs", [fsArg v]⟩

/-- `/mblob`: one blob argument (30_encoding.md R105). -/
def mblobFrame (bytes : List Byte) : Frame := ⟨"/mblob", [.blob bytes]⟩

/-- `/knobs(knob[0], .., knob[5])` (45_scheduler.md R275). -/
def knobsFrame (knob : List Sample) : Frame := ⟨"/knobs", knob.map sampleArg⟩

end Sys2Proof.Machine
end

