-- ==== Sys2Proof/Machine/Timebase.lean ====
section
/-! DEFINITION. Timebase operations, U1 (40_timebase.md R120 to R127). -/

namespace Sys2Proof.Machine

/-- `TB.SW_RESET` (R124). -/
def swReset (s : State) : State := { s with stopwatch := 0 }

/-- `TB.SW_READ` (R125): the value it returns. -/
def swRead (s : State) : Nat := s.stopwatch

/-- The threshold polls: strict, "exceeds" (40_timebase.md R127, D6). -/
def stopwatchExceeds (threshold : Nat) (s : State) : Bool := decide (threshold < swRead s)

/-- Load the countdown and enter the busy-wait, which ends at once for `n = 0` (R123). -/
def beginSleep (n : Nat) (s : State) : State :=
  { s with countdown := n, sleeping := decide (n ≠ 0) }

/-- One poll of the busy-wait: it ends when `countdown` has reached zero (R123). -/
def pollSleep (s : State) : State := if s.countdown = 0 then { s with sleeping := false } else s

/-- `TB.START` (R121). -/
def execTbStart (s : State) : Host.Outcome State Fault Refusal := .next (armTimebase s)

/-- `TB.TICK` (R122).  That `IRQ` has no step before `TB.START` is `takeTick`'s. -/
def execTbTick (s : State) : Host.Outcome State Fault Refusal :=
  .next (returnFromTick (tickCounters s))

/-- `TB.SLEEP n` (R123): the write of `countdown` and the entry into the wait; the polls are later
actions of `FG` (`pollSleep`), between which `IRQ` may step. -/
def execTbSleep (n : Nat) (s : State) : Host.Outcome State Fault Refusal :=
  if n < 2 ^ s.cfg.wCountdown then .next (beginSleep n s)
  else .refused (.sleepOperandOutOfRange n)

/-- `TB.SW_RESET` (R124). -/
def execTbSwReset (s : State) : Host.Outcome State Fault Refusal := .next (swReset s)

/-- `TB.SW_READ` (R125): "It changes nothing"; the result goes to the caller (log 25). -/
def execTbSwRead (s : State) : Host.Outcome State Fault Refusal :=
  .next { s with ret := .count (swRead s) }

end Sys2Proof.Machine
end

