-- ==== Sys2Proof/Machine/Commands.lean ====
section
/-! DEFINITION. Command strobes, U5 (44_command_strobes.md R240 to R248), and the shutdown routine that
one of them starts (45_scheduler.md R272). -/

namespace Sys2Proof.Machine

/-- The shutdown routine as one transition (45_scheduler.md R272, D27): the display is cleared and then
shows what the spec does not give, `rgb` is left at any value, and the block halts (class Shutdown,
60_exceptions.md R304).  Free values, log 12. -/
def shutdownRoutine (s : State) : State :=
  raise .shutdown
    (countDraw
      (onDisplay (.clear :: Config.freeDisplay s.freeCount)
        { s with rgb := Config.freeRgb s.freeCount }))

/-- `CMD.READY` (R241): enter `Run` at `MIDI_DRAIN`. -/
def execCmdReady (s : State) : Host.Outcome State Fault Refusal := .next { s with pc := .run .midiDrain }

/-- `CMD.LED v` (R242). -/
def execCmdLed (v : Word) (s : State) : Host.Outcome State Fault Refusal :=
  .next { s with rgb := ledColour v }

/-- `CMD.SHUTDOWN` (R243): it runs `SCH.SHUTDOWN`. -/
def execCmdShutdown (s : State) : Host.Outcome State Fault Refusal := .next (shutdownRoutine s)

/-- `CMD.NF` (R244). -/
def execCmdNf (s : State) : Host.Outcome State Fault Refusal := .next (armSnapshot (swReset s))

/-- `CMD.GETKNOBS` (R245). -/
def execCmdGetknobs (s : State) : Host.Outcome State Fault Refusal := .next (emit (knobsFrame s.knob) s)

/-- `CMD.UNMATCHED` (R246), and the discard of a malformed frame (R247, 60_exceptions.md R301):
nothing happens. -/
def execCmdUnmatched (s : State) : Host.Outcome State Fault Refusal := .next (raise .malformedFrame s)

/-- Execute a command (R240). -/
def runStrobe (c : Command) (s : State) : Host.Outcome State Fault Refusal :=
  match c with
  | .ready => execCmdReady s
  | .led v => execCmdLed v s
  | .shutdown => execCmdShutdown s
  | .nf => execCmdNf s
  | .getknobs => execCmdGetknobs s
  | .unmatched => execCmdUnmatched s

end Sys2Proof.Machine
end

