-- ==== Sys2Proof/Machine/Blob.lean ====
section
/-! DEFINITION. Live-State Blob operations, U3 (42_live_state_blob.md R190 to R199).  Layout: bytes
0..15 note bitfield, 16..20 controller slots, 21 sync position, 22 program (10_state.md R31). -/

namespace Sys2Proof.Machine

/-- The byte of a note: `(note >> 3) & 0xF` (R191). -/
def noteIndex (note : Byte) : Nat := ((note >>> 3) &&& 0x0F#8).toNat

/-- The bit of a note in its byte: `1 << (note & 7)` (R191, 20_memory.md R68). -/
def noteMask (note : Byte) : Byte := 1#8 <<< (note &&& 7#8).toNat

/-- The first controller slot, `blob[16]`. -/
def controllerBase : Nat := 16

/-- The sync position, `blob[21]`. -/
def syncIndex : Nat := 21

/-- The current program, `blob[22]`. -/
def programIndex : Nat := 22

/-- `BL.NOTE_ON` (R191). -/
def noteOn (note : Byte) (s : State) : State :=
  blobWrite (noteIndex note) (blobRead s (noteIndex note) ||| noteMask note) s

/-- `BL.NOTE_OFF` (R192). -/
def noteOff (note : Byte) (s : State) : State :=
  blobWrite (noteIndex note) (blobRead s (noteIndex note) &&& ~~~(noteMask note)) s

/-- `for s in 0 .. 4: if cc = CC_SLOT[s]: MemWrite(blob, 16 + s, 1, value)`, from address `a` on (R193). -/
def writeSlots (cc value : Byte) : List Byte → Nat → Memory → Memory
  | [], _, m => m
  | slot :: rest, a, m =>
    writeSlots cc value rest (a + 1) (if cc = slot then Memory.write m a value else m)

/-- `BL.SET_CONTROLLER` (R193): a controller outside the whitelist matches no slot and writes nothing,
class OutOfRange (60_exceptions.md R302). -/
def setController (cc value : Byte) (s : State) : State :=
  { s with blob := writeSlots cc value s.cfg.ccSlot.toList controllerBase s.blob }

/-- `BL.ADVANCE_SYNC`: modulo `SYNC_MODULUS` (R194). -/
def advanceSync (s : State) : State :=
  blobWrite syncIndex (BitVec.ofNat 8 (((blobRead s syncIndex).toNat + 1) % s.cfg.syncModulus)) s

/-- `BL.RESET_SYNC` (R195). -/
def resetSync (s : State) : State := blobWrite syncIndex 0#8 s

/-- `BL.SET_PROGRAM` (R196). -/
def setProgram (value : Byte) (s : State) : State := blobWrite programIndex value s

/-- The state after `BL.SNAPSHOT`: unchanged unless `SNAPSHOT_CLEARS` (R197, D19). -/
def afterSnapshot (s : State) : State := if s.cfg.snapshotClears then blobZero s else s

/-- `BL.NOTE_ON note` (R191). -/
def execBlNoteOn (note : Byte) (s : State) : Host.Outcome State Fault Refusal := .next (noteOn note s)

/-- `BL.NOTE_OFF note` (R192). -/
def execBlNoteOff (note : Byte) (s : State) : Host.Outcome State Fault Refusal :=
  .next (noteOff note s)

/-- `BL.SET_CONTROLLER cc, value` (R193). -/
def execBlSetController (cc value : Byte) (s : State) : Host.Outcome State Fault Refusal :=
  .next (setController cc value s)

/-- `BL.ADVANCE_SYNC` (R194). -/
def execBlAdvanceSync (s : State) : Host.Outcome State Fault Refusal := .next (advanceSync s)

/-- `BL.RESET_SYNC` (R195). -/
def execBlResetSync (s : State) : Host.Outcome State Fault Refusal := .next (resetSync s)

/-- `BL.SET_PROGRAM value` (R196). -/
def execBlSetProgram (value : Byte) (s : State) : Host.Outcome State Fault Refusal :=
  .next (setProgram value s)

/-- `BL.SNAPSHOT` (R197): the 23 bytes go to the caller (log 25). -/
def execBlSnapshot (s : State) : Host.Outcome State Fault Refusal :=
  .next (afterSnapshot { s with ret := .bytes (blobBytes s) })

end Sys2Proof.Machine
end

