-- ==== Sys2Proof/Machine/Decoder.lean ====
section
/-! DEFINITION. MIDI Decoder, U2 (41_midi_decoder.md R140 to R178): the step function of R141, its
clauses, the handlers of R147 and R176, and one meaning for each byte class. -/

namespace Sys2Proof.Machine

/-! ### Handlers -/

/-- The blob operation of an event (R176); the events that are not meaningful have none. -/
def eventBlob : MidiEvent → State → State
  | .noteOn _ n _, s => noteOn n s
  | .noteOff _ n _, s => noteOff n s
  | .controlChange _ c v, s => setController c v s
  | .programChange _ p, s => setProgram p s
  | .clock, s => advanceSync s
  | .start, s => resetSync s
  | .cont, s => resetSync s
  | .stop, s => s
  | .polyPressure _ _ _, s => s
  | .channelPressure _ _, s => s
  | .pitchBend _ _ _, s => s
  | .songPosition _ _, s => s
  | .songSelect _, s => s
  | .tuneRequest, s => s
  | .activeSense, s => s
  | .systemReset, s => s
  | .passthroughEnter, s => s
  | .passthroughExit, s => s

/-- The blob half of a handler, under `UPDATE_BLOB` (R176, D12). -/
def handleBlob (e : MidiEvent) (s : State) : State :=
  if s.cfg.updateBlob then eventBlob e s else s

/-- The notification half of a handler, forwarded at once as its frame, under `FORWARD_EVENTS`
(R176, D12, D13). -/
def handleFrame (e : MidiEvent) (s : State) : State :=
  if s.cfg.forwardEvents then
    match eventFrame s.cfg.transportArg e with
    | some f => emit f s
    | none => s
  else s

/-- The event record joins the decoder's output (R147). -/
def record (e : MidiEvent) (s : State) : State := { s with fired := s.fired ++ [e] }

/-- `fire H(e)`: the event record, then the handler, the blob write first (R147, R176). -/
def fire (e : MidiEvent) (s : State) : State := handleFrame e (handleBlob e (record e s))

/-- Fire the event of a class that has one. -/
def fireOpt (e : Option MidiEvent) (s : State) : State :=
  match e with
  | some ev => fire ev s
  | none => s

/-! ### The clauses of the step function -/

/-- Clause 1: forward the byte to the passthrough sink; "no register changes" (R142). -/
def forward (b : Byte) (s : State) : State := toSink (.byte b) s

/-- Return to `Idle`: no pending event, counters cleared (R144, R145, R148, R149). -/
def toIdle (s : State) : State :=
  { s with pendingEvent := none, bytesNeeded := 0, bytesReceived := 0 }

/-- Clause 2, a class with `n` arguments: enter `AwaitingArgs(b, n, 0)` (R143). -/
def awaitArgs (b : Byte) (n : Nat) (s : State) : State :=
  { s with pendingEvent := some b, bytesNeeded := n, bytesReceived := 0 }

/-- Clause 2, a zero-argument class: fire its handler and return to `Idle` (R144). -/
def immediate (k : ByteClass) (s : State) : State := toIdle (fireOpt (immediateEvent k) s)

/-- Clause 2, `VENDOR_START`: enter passthrough, entry hook (R145). -/
def enterPassthrough (s : State) : State :=
  fire .passthroughEnter (toSink .enter (toIdle { s with mode := .passthrough }))

/-- Clause 2, `VENDOR_END`: leave passthrough, exit hook, in every state (R148). -/
def exitPassthrough (s : State) : State :=
  fire .passthroughExit (toSink .exit (toIdle { s with mode := .normal }))

/-- A message of the pending status byte `e` completes with the byte `b`: the handler is fired if the
channel filter accepts it (R146, R150). -/
def complete (e b : Byte) (s : State) : State :=
  if accept s.channelFilter e (channelOf e) then
    fireOpt (completedEvent (channelOf e) s.lastDataByte b (classify s.cfg.status e)) s
  else s

/-- Clause 3, a data byte (R146). -/
def dataByte (b : Byte) (s : State) : State :=
  match s.pendingEvent with
  | none => { s with lastDataByte := b }
  | some e =>
    if s.bytesReceived + 1 = s.bytesNeeded then
      { complete e b s with bytesReceived := 0, lastDataByte := b }
    else
      { s with bytesReceived := s.bytesReceived + 1, lastDataByte := b }

/-- `MD.BYTE b`, the three clauses in order (R141). -/
def byteStep (b : Byte) (s : State) : State :=
  if s.mode = .passthrough ∧ b ≠ s.cfg.status.endMarker then forward b s
  else
    match (classify s.cfg.status b).kind with
    | .withArgs n => awaitArgs b n s
    | .immediate => immediate (classify s.cfg.status b) s
    | .startPassthrough => enterPassthrough s
    | .endPassthrough => exitPassthrough s
    | .unlisted => toIdle s
    | .data => dataByte b s

/-- What every class but the end marker does first: in passthrough the byte is forwarded and nothing
else happens (R142, 30_encoding.md R101). -/
def unlessPassthrough (b : Byte) (f : State → State) (s : State) : State :=
  match s.mode with
  | .passthrough => forward b s
  | .normal => f s

/-- A status byte of a channel class with `n` arguments (R143). -/
def channelStatus (k : ByteClass) (c : BitVec 4) (n : Nat) (s : State) : State :=
  unlessPassthrough (s.cfg.status.channelByte k c) (awaitArgs (s.cfg.status.channelByte k c) n) s

/-- A system byte outside passthrough: `f` of its byte (30_encoding.md R92, R93). -/
def systemStatus (k : ByteClass) (f : Byte → State → State) (s : State) : State :=
  unlessPassthrough (s.cfg.status.systemByte k) (f (s.cfg.status.systemByte k)) s

/-! ### One meaning for each operation -/

/-- `MD.INIT f` (R140). -/
def initDecoder (f : Byte) (s : State) : State :=
  { s with
    channelFilter := f, mode := .normal, pendingEvent := none, bytesNeeded := 0,
    bytesReceived := 0, lastDataByte := 0 }

/-- `MD.INIT f` (R140). -/
def execMdInit (f : Byte) (s : State) : Host.Outcome State Fault Refusal := .next (initDecoder f s)

/-- `MD.BYTE b` (R141). -/
def execMdByte (b : Byte) (s : State) : Host.Outcome State Fault Refusal := .next (byteStep b s)

/-- `NOTE_OFF` (R151). -/
def execNoteOff (c : BitVec 4) (s : State) : Host.Outcome State Fault Refusal :=
  .next (channelStatus .noteOff c 2 s)

/-- `NOTE_ON` (R152). -/
def execNoteOn (c : BitVec 4) (s : State) : Host.Outcome State Fault Refusal :=
  .next (channelStatus .noteOn c 2 s)

/-- `POLY_PRESSURE` (R153). -/
def execPolyPressure (c : BitVec 4) (s : State) : Host.Outcome State Fault Refusal :=
  .next (channelStatus .polyPressure c 2 s)

/-- `CONTROL_CHANGE` (R154). -/
def execControlChange (c : BitVec 4) (s : State) : Host.Outcome State Fault Refusal :=
  .next (channelStatus .controlChange c 2 s)

/-- `PROGRAM_CHANGE` (R155). -/
def execProgramChange (c : BitVec 4) (s : State) : Host.Outcome State Fault Refusal :=
  .next (channelStatus .programChange c 1 s)

/-- `CHANNEL_PRESSURE` (R156). -/
def execChannelPressure (c : BitVec 4) (s : State) : Host.Outcome State Fault Refusal :=
  .next (channelStatus .channelPressure c 1 s)

/-- `PITCH_BEND` (R157). -/
def execPitchBend (c : BitVec 4) (s : State) : Host.Outcome State Fault Refusal :=
  .next (channelStatus .pitchBend c 2 s)

/-- `VENDOR_START` (R158). -/
def execVendorStart (s : State) : Host.Outcome State Fault Refusal :=
  .next (systemStatus .vendorStart (fun _ => enterPassthrough) s)

/-- `UNLISTED_F1` (R169, D8). -/
def execUnlistedF1 (s : State) : Host.Outcome State Fault Refusal :=
  .next (systemStatus .unlistedF1 (fun _ => toIdle) s)

/-- `SONG_POSITION` (R159). -/
def execSongPosition (s : State) : Host.Outcome State Fault Refusal :=
  .next (systemStatus .songPosition (fun b => awaitArgs b 2) s)

/-- `SONG_SELECT` (R160). -/
def execSongSelect (s : State) : Host.Outcome State Fault Refusal :=
  .next (systemStatus .songSelect (fun b => awaitArgs b 1) s)

/-- `UNLISTED_F4` (R169, D8). -/
def execUnlistedF4 (s : State) : Host.Outcome State Fault Refusal :=
  .next (systemStatus .unlistedF4 (fun _ => toIdle) s)

/-- `UNLISTED_F5` (R169, D8). -/
def execUnlistedF5 (s : State) : Host.Outcome State Fault Refusal :=
  .next (systemStatus .unlistedF5 (fun _ => toIdle) s)

/-- `TUNE_REQUEST` (R161). -/
def execTuneRequest (s : State) : Host.Outcome State Fault Refusal :=
  .next (systemStatus .tuneRequest (fun _ => immediate .tuneRequest) s)

/-- `VENDOR_END` (R162): "Rule R148 in every state". -/
def execVendorEnd (s : State) : Host.Outcome State Fault Refusal := .next (exitPassthrough s)

/-- `CLOCK` (R163). -/
def execClock (s : State) : Host.Outcome State Fault Refusal :=
  .next (systemStatus .clock (fun _ => immediate .clock) s)

/-- `UNLISTED_F9` (R169, D8). -/
def execUnlistedF9 (s : State) : Host.Outcome State Fault Refusal :=
  .next (systemStatus .unlistedF9 (fun _ => toIdle) s)

/-- `START` (R164). -/
def execStart (s : State) : Host.Outcome State Fault Refusal :=
  .next (systemStatus .start (fun _ => immediate .start) s)

/-- `CONTINUE` (R165). -/
def execCont (s : State) : Host.Outcome State Fault Refusal :=
  .next (systemStatus .cont (fun _ => immediate .cont) s)

/-- `STOP` (R166). -/
def execStop (s : State) : Host.Outcome State Fault Refusal :=
  .next (systemStatus .stop (fun _ => immediate .stop) s)

/-- `UNLISTED_FD` (R169, D8). -/
def execUnlistedFD (s : State) : Host.Outcome State Fault Refusal :=
  .next (systemStatus .unlistedFD (fun _ => toIdle) s)

/-- `ACTIVE_SENSE` (R167). -/
def execActiveSense (s : State) : Host.Outcome State Fault Refusal :=
  .next (systemStatus .activeSense (fun _ => immediate .activeSense) s)

/-- `SYSTEM_RESET` (R168): "it does not reset the block, the blob or the filter". -/
def execSystemReset (s : State) : Host.Outcome State Fault Refusal :=
  .next (systemStatus .systemReset (fun _ => immediate .systemReset) s)

/-- `DATA d` (R170). -/
def execData (d : BitVec 7) (s : State) : Host.Outcome State Fault Refusal :=
  .next (unlessPassthrough (d.setWidth 8) (dataByte (d.setWidth 8)) s)

end Sys2Proof.Machine
end

