-- ==== Sys2Proof/Machine/Scanner.lean ====
section
/-! DEFINITION. Input Scanner, U4 (43_input_scanner.md R210 to R224): four-of-four key debounce, knob
latch, two-of-two foot switch with hysteresis. -/

namespace Sys2Proof.Machine

/-! ### Keys -/

/-- The raw state of a key: pressed when its pin is at `KEY_PRESSED_LEVEL` (10_state.md R36). -/
def rawKey (pressedLevel level : Bool) : Contact :=
  if level = pressedLevel then .pressed else .released

/-- The generation after `g`, modulo `KEY_GENERATIONS` (R211). -/
def nextGeneration (s : State) : Nat := (s.keyGeneration + 1) % s.cfg.keyGenerations

/-- The sampling part: advance the generation, then write the raw vector into that slot (R211, D20). -/
def sampleKeys (s : State) : State :=
  { s with
    keyGeneration := nextGeneration s
    keyGen := s.keyGen.set (nextGeneration s) (s.pins.map (rawKey s.cfg.keyPressedLevel)) }

/-- All generations of key `i` read `v` (R212). -/
def allRead (ring : List (List Contact)) (i : Nat) (v : Contact) : Bool :=
  ring.all (fun g => g[i]? == some v)

/-- The decision for one key: what its last-reported state becomes (R212). -/
def decideKey (ring : List (List Contact)) (i : Nat) (last : Contact) : Contact :=
  if allRead ring i .pressed then .pressed
  else if allRead ring i .released then .released
  else last

/-- The frame of one key's decision: one on a change, none otherwise (R212). -/
def keyReport (c : Config) (ring : List (List Contact)) (i : Nat) (last : Contact) : List Frame :=
  if decideKey ring i last = last then [] else [keyFrame c i (decideKey ring i last)]

/-- The last-reported states after the decision part, for the keys from index `i` on. -/
def decideKeys (ring : List (List Contact)) : Nat → List Contact → List Contact
  | _, [] => []
  | i, last :: rest => decideKey ring i last :: decideKeys ring (i + 1) rest

/-- The frames of the decision part in ascending key index, for the keys from index `i` on (D20). -/
def keyReports (c : Config) (ring : List (List Contact)) : Nat → List Contact → List Frame
  | _, [] => []
  | i, last :: rest => keyReport c ring i last ++ keyReports c ring (i + 1) rest

/-- The decision part (R212). -/
def reportKeys (s : State) : State :=
  emitAll (keyReports s.cfg s.keyGen 0 s.keyLast)
    { s with keyLast := decideKeys s.keyGen 0 s.keyLast }

/-- `SC.KEYSCAN`: sampling, then decision, in the same step (R211, R212). -/
def keyScan (s : State) : State := reportKeys (sampleKeys s)

/-! ### Foot switch -/

/-- The candidate, with hysteresis: strict comparisons, unchanged in between (R221, D23). -/
def fsCandidateOf (c : Config) (v : Sample) (prior : Contact) : Contact :=
  if v.toNat < c.fsLow then .pressed
  else if c.fsHigh < v.toNat then .released
  else prior

/-- The write of the candidate into the alternating buffer of `FS_SLOTS` slots, on every poll (R222,
D22). -/
def fsPush (v : Sample) (s : State) : State :=
  { s with
    fsCandidate := fsCandidateOf s.cfg v s.fsCandidate
    fsBuf := s.fsBuf.set s.fsSlot (fsCandidateOf s.cfg v s.fsCandidate)
    fsSlot := (s.fsSlot + 1) % s.cfg.fsSlots }

/-- What every slot of the buffer holds, when they agree (R222). -/
def fsAgreed : List Contact → Option Contact
  | [] => none
  | c :: rest => if rest.all (fun d => d == c) then some c else none

/-- Agreement of all slots on a state other than the last-reported one: report it (R222). -/
def fsReport (s : State) : State :=
  match fsAgreed s.fsBuf with
  | none => s
  | some c => if c = s.fsLast then s else emit (fsFrame c) { s with fsLast := c }

/-- `SC.FS_POLL v` (R220): R221, then R222. -/
def fsPoll (v : Sample) (s : State) : State := fsReport (fsPush v s)

/-! ### Knobs -/

/-- Every channel that the latch reads exists in the sample buffer (D24). -/
def channelsPresent (s : State) : Bool :=
  s.cfg.knobMap.all (fun c => decide (c < s.adcSample.length)) &&
  decide (s.cfg.fsChannel < s.adcSample.length)

/-- `adc_sample[c]`. -/
def sampleAt (s : State) (c : Nat) : Sample := s.adcSample.getD c 0

/-- Clear the batch notice and copy the batch through the channel remap, in one atomic step (R215,
D35). -/
def latchKnobs (s : State) : State :=
  clearBatchComplete { s with knob := s.cfg.knobMap.map (sampleAt s) }

/-- `SC.KNOB_LATCH` (R215): with the flag clear nothing changes and the foot switch is not polled. -/
def knobLatch (s : State) : Host.Outcome State Fault Refusal :=
  if s.adcBatchComplete then
    if channelsPresent s then .next (fsPoll (sampleAt s s.cfg.fsChannel) (latchKnobs s))
    else .fault .absentChannel
  else .next s

/-- `SC.CYCLE`: keys, then knobs, then (when latched) the foot switch (R210, D21). -/
def scanCycle (s : State) : Host.Outcome State Fault Refusal := knobLatch (keyScan s)

/-! ### One meaning for each operation -/

/-- `SC.CYCLE` (R210). -/
def execScCycle (s : State) : Host.Outcome State Fault Refusal := scanCycle s

/-- `SC.KEYSCAN` (R211, R212). -/
def execScKeyscan (s : State) : Host.Outcome State Fault Refusal := .next (keyScan s)

/-- `SC.KNOB_LATCH` (R215). -/
def execScKnobLatch (s : State) : Host.Outcome State Fault Refusal := knobLatch s

/-- `SC.FS_POLL v` (R220).  The rule's operand has `W_SAMPLE` bits; one of `2^W_SAMPLE` or more is compared
with the thresholds as it stands: the model's choice, log 37. -/
def execScFsPoll (v : Sample) (s : State) : Host.Outcome State Fault Refusal := .next (fsPoll v s)

end Sys2Proof.Machine
end

