-- ==== Sys2Proof/Machine/Scheduler.lean ====
section
/-! DEFINITION. Scheduler and rate-gate, U6 (45_scheduler.md R260 to R275).  An operation here is the
whole operation of its rule with no other agent in between; `step` takes the same actions one at a
time, so that ticks and inputs may fall between them, also inside an operation at the points that
20_memory.md R72 names (log 6). -/

namespace Sys2Proof.Machine

/-! ### Init (R273) -/

/-- `SCH.INIT` up to `TB.START`: on failure halt before any protocol activity (60_exceptions.md R303),
else arm the Timebase (R273). -/
def initStart (initOk : Bool) (s : State) : State :=
  if initOk then { armTimebase s with pc := .init .decoder } else raise .initFailure s

/-- `SCH.INIT` from `MD.INIT` on: initialise the decoder and enter Boot-Wait (R273). -/
def initFinish (s : State) : State :=
  { initDecoder s.cfg.channelFilterInit s with pc := .bootWait .framePoll }

/-- `SCH.INIT` as a whole (R273, D40). -/
def schedulerInit (initOk : Bool) (s : State) : State :=
  if initOk then initFinish (initStart true s) else initStart false s

/-! ### Boot-Wait (R261, R262) -/

/-- Step FRAME_POLL: remove at most one frame; `/ready` enters `Run` and ends the iteration, any other
is discarded (R261). -/
def framePoll (s : State) : Host.Outcome State Fault Refusal :=
  match s.cmdRx with
  | [] => .next { s with pc := .bootWait .stallCheck }
  | f :: rest => runStrobe (bootCommand f) { s with cmdRx := rest, pc := .bootWait .stallCheck }

/-- Step STALL_CHECK, the read: has the stopwatch exceeded the threshold (R262, D6)? -/
def stallRead (s : State) : State :=
  if stopwatchExceeds s.cfg.bootStallThreshold s then { s with pc := .bootWait .stallReset }
  else { s with pc := .bootWait .framePoll }

/-- Advance the capped boot-progress indicator and show it (R262, D33). -/
def advanceProgress (s : State) : State :=
  onDisplay [.drawProgress (min (s.bootProgress + 1) s.cfg.bootProgressMax)]
    { s with bootProgress := min (s.bootProgress + 1) s.cfg.bootProgressMax }

/-- Step STALL_CHECK, the reset of the stopwatch (R262). -/
def stallReset (s : State) : State := { swReset s with pc := .bootWait .stallShow }

/-- Step STALL_CHECK, the rest: advance the indicator (R262). -/
def stallShow (s : State) : State := { advanceProgress s with pc := .bootWait .framePoll }

/-- Step STALL_CHECK as a whole (R262). -/
def stallCheck (s : State) : State :=
  if stopwatchExceeds s.cfg.bootStallThreshold s then stallShow (stallReset s)
  else { s with pc := .bootWait .framePoll }

/-- STALL_CHECK runs "only if still in BootWait" (R261). -/
def stallCheckIfWaiting (s : State) : State :=
  match s.pc with
  | .bootWait _ => stallCheck s
  | .init _ => s
  | .run _ => s
  | .halted => s

/-- `SCH.BOOT_ITER` (R261). -/
def bootIteration (s : State) : Host.Outcome State Fault Refusal :=
  andThen (framePoll s) (fun t => .next (stallCheckIfWaiting t))

/-! ### Run (R264 to R270) -/

/-- `while midi_rx not empty: MD.BYTE(pop(midi_rx))` (R265), over the bytes of the buffer. -/
def drainBytes : List Byte → State → State
  | [], s => s
  | b :: rest, s => drainBytes rest (byteStep b { s with midiRx := rest })

/-- `SCH.MIDI_DRAIN` (R265), after which the sequencer is at CMD_POLL (R264). -/
def midiDrain (s : State) : State := { drainBytes s.midiRx s with pc := .run .cmdPoll }

/-- The position after CMD_POLL; the shutdown command has ended the iteration (R243, R266). -/
def afterCommand (s : State) : State :=
  if s.pc = .halted then s else { s with pc := .run .scan }

/-- `SCH.CMD_POLL`: at most one frame is removed and routed (R266). -/
def cmdPoll (s : State) : Host.Outcome State Fault Refusal :=
  match s.cmdRx with
  | [] => .next { s with pc := .run .scan }
  | f :: rest =>
    andThen (runStrobe (runCommand s.cfg.routes f) { s with cmdRx := rest, pc := .run .cmdPoll })
      (fun t => .next (afterCommand t))

/-- The next frame is a new-frame notice: it selects `CMD.NF` (44_command_strobes.md R240, R244). -/
def noticeNext (s : State) : Bool :=
  match s.cmdRx with
  | [] => false
  | f :: _ => decide (runCommand s.cfg.routes f = .nf)

/-- CMD_POLL with a notice, up to the `TB.SW_RESET` of `CMD.NF` (R266, 44_command_strobes.md R244). -/
def noticeReset (s : State) : State :=
  { swReset { s with cmdRx := s.cmdRx.tail } with pc := .run .nfArm }

/-- CMD_POLL with a notice, from `snapshot_pending <- true` on (44_command_strobes.md R244). -/
def noticeArm (s : State) : State := { armSnapshot s with pc := .run .scan }

/-- `SCH.SCAN`: one scanner cycle (R267). -/
def scanStep (s : State) : Host.Outcome State Fault Refusal :=
  andThen (scanCycle s) (fun t => .next { t with pc := .run .gate })

/-- The emission of the pair `/mblob`, `/knobs`, and the clear of the pending flag (R270). -/
def sendSnapshot (s : State) : State :=
  clearSnapshot (emit (knobsFrame s.knob) (afterSnapshot (emit (mblobFrame (blobBytes s)) s)))

/-- Both a pending notice and an exceeded threshold are needed: the test of SCH.GATE, with its
`TB.SW_READ` (R270, D6). -/
def gateOpens (s : State) : Bool := s.snapshotPending && stopwatchExceeds s.cfg.gateThreshold s

/-- SCH.GATE, the read: go on to the emission, or to the next iteration (R264, R270). -/
def gateRead (s : State) : State :=
  if gateOpens s then { s with pc := .run .gateSend } else { s with pc := .run .midiDrain }

/-- SCH.GATE, the emission; the next iteration begins at MIDI_DRAIN (R264, R270). -/
def gateSend (s : State) : State := { sendSnapshot s with pc := .run .midiDrain }

/-- `SCH.GATE` as a whole, the rate-gate (R270). -/
def gateStep (s : State) : State :=
  if gateOpens s then gateSend s else { s with pc := .run .midiDrain }

/-- SCAN and GATE are not executed once the block has halted (R243). -/
def scanAndGate (s : State) : Host.Outcome State Fault Refusal :=
  if s.pc = .halted then .next s else andThen (scanStep s) (fun t => .next (gateStep t))

/-- `SCH.RUN_ITER`: the four steps in order (R264). -/
def runIteration (s : State) : Host.Outcome State Fault Refusal :=
  andThen (cmdPoll (midiDrain s)) scanAndGate

/-! ### One meaning for each operation -/

/-- `SCH.INIT` (R273). -/
def execSchInit (initOk : Bool) (s : State) : Host.Outcome State Fault Refusal :=
  .next (schedulerInit initOk s)

/-- `SCH.BOOT_ITER` (R261). -/
def execSchBootIter (s : State) : Host.Outcome State Fault Refusal := bootIteration s

/-- `SCH.RUN_ITER` (R264). -/
def execSchRunIter (s : State) : Host.Outcome State Fault Refusal := runIteration s

/-- `SCH.MIDI_DRAIN` (R265). -/
def execSchMidiDrain (s : State) : Host.Outcome State Fault Refusal := .next (midiDrain s)

/-- `SCH.CMD_POLL` (R266). -/
def execSchCmdPoll (s : State) : Host.Outcome State Fault Refusal := cmdPoll s

/-- `SCH.SCAN` (R267). -/
def execSchScan (s : State) : Host.Outcome State Fault Refusal := scanStep s

/-- `SCH.GATE` (R270). -/
def execSchGate (s : State) : Host.Outcome State Fault Refusal := .next (gateStep s)

/-- `SCH.SHUTDOWN` (R272). -/
def execSchShutdown (s : State) : Host.Outcome State Fault Refusal := .next (shutdownRoutine s)

end Sys2Proof.Machine
end

