-- ==== Sys2Proof/Machine/Dispatch.lean ====
section
/-! DEFINITION. The dispatch of every operation to its meaning, in the opcode table's order. -/

namespace Sys2Proof.Machine

/-- The effect of an operation (one arm for each row of spec/opcode_table.json). -/
def exec (i : Instr) (s : State) : Host.Outcome State Fault Refusal :=
  match i with
  | .noteOff c => Sys2Proof.Machine.execNoteOff c s
  | .noteOn c => Sys2Proof.Machine.execNoteOn c s
  | .polyPressure c => Sys2Proof.Machine.execPolyPressure c s
  | .controlChange c => Sys2Proof.Machine.execControlChange c s
  | .programChange c => Sys2Proof.Machine.execProgramChange c s
  | .channelPressure c => Sys2Proof.Machine.execChannelPressure c s
  | .pitchBend c => Sys2Proof.Machine.execPitchBend c s
  | .vendorStart => Sys2Proof.Machine.execVendorStart s
  | .unlistedF1 => Sys2Proof.Machine.execUnlistedF1 s
  | .songPosition => Sys2Proof.Machine.execSongPosition s
  | .songSelect => Sys2Proof.Machine.execSongSelect s
  | .unlistedF4 => Sys2Proof.Machine.execUnlistedF4 s
  | .unlistedF5 => Sys2Proof.Machine.execUnlistedF5 s
  | .tuneRequest => Sys2Proof.Machine.execTuneRequest s
  | .vendorEnd => Sys2Proof.Machine.execVendorEnd s
  | .clock => Sys2Proof.Machine.execClock s
  | .unlistedF9 => Sys2Proof.Machine.execUnlistedF9 s
  | .start => Sys2Proof.Machine.execStart s
  | .cont => Sys2Proof.Machine.execCont s
  | .stop => Sys2Proof.Machine.execStop s
  | .unlistedFD => Sys2Proof.Machine.execUnlistedFD s
  | .activeSense => Sys2Proof.Machine.execActiveSense s
  | .systemReset => Sys2Proof.Machine.execSystemReset s
  | .data d => Sys2Proof.Machine.execData d s
  | .cmdReady => Sys2Proof.Machine.execCmdReady s
  | .cmdLed v => Sys2Proof.Machine.execCmdLed v s
  | .cmdShutdown => Sys2Proof.Machine.execCmdShutdown s
  | .cmdNf => Sys2Proof.Machine.execCmdNf s
  | .cmdGetknobs => Sys2Proof.Machine.execCmdGetknobs s
  | .cmdUnmatched => Sys2Proof.Machine.execCmdUnmatched s
  | .tbStart => Sys2Proof.Machine.execTbStart s
  | .tbTick => Sys2Proof.Machine.execTbTick s
  | .tbSleep n => Sys2Proof.Machine.execTbSleep n s
  | .tbSwReset => Sys2Proof.Machine.execTbSwReset s
  | .tbSwRead => Sys2Proof.Machine.execTbSwRead s
  | .mdInit f => Sys2Proof.Machine.execMdInit f s
  | .mdByte b => Sys2Proof.Machine.execMdByte b s
  | .blNoteOn note => Sys2Proof.Machine.execBlNoteOn note s
  | .blNoteOff note => Sys2Proof.Machine.execBlNoteOff note s
  | .blSetController cc value => Sys2Proof.Machine.execBlSetController cc value s
  | .blAdvanceSync => Sys2Proof.Machine.execBlAdvanceSync s
  | .blResetSync => Sys2Proof.Machine.execBlResetSync s
  | .blSetProgram value => Sys2Proof.Machine.execBlSetProgram value s
  | .blSnapshot => Sys2Proof.Machine.execBlSnapshot s
  | .scCycle => Sys2Proof.Machine.execScCycle s
  | .scKeyscan => Sys2Proof.Machine.execScKeyscan s
  | .scKnobLatch => Sys2Proof.Machine.execScKnobLatch s
  | .scFsPoll v => Sys2Proof.Machine.execScFsPoll v s
  | .schInit initOk => Sys2Proof.Machine.execSchInit initOk s
  | .schBootIter => Sys2Proof.Machine.execSchBootIter s
  | .schRunIter => Sys2Proof.Machine.execSchRunIter s
  | .schMidiDrain => Sys2Proof.Machine.execSchMidiDrain s
  | .schCmdPoll => Sys2Proof.Machine.execSchCmdPoll s
  | .schScan => Sys2Proof.Machine.execSchScan s
  | .schGate => Sys2Proof.Machine.execSchGate s
  | .schShutdown => Sys2Proof.Machine.execSchShutdown s

end Sys2Proof.Machine
end

