-- ==== Sys2Proof/Machine/Foreground.lean ====
section
/-! DEFINITION. What `FG` does next: "a function of `phase` and `step`" (45_scheduler.md R260), and the
fetch of a MIDI byte from `midi_rx` (20_memory.md R78). -/

namespace Sys2Proof.Machine

/-- One action of `FG` in `Init`: SCH.INIT up to `TB.START`, or from `MD.INIT` on (R273). -/
def initAction (p : InitStep) (s : State) : Host.Outcome State Fault Refusal :=
  match p with
  | .start => .next (initStart s.initOk s)
  | .decoder => .next (initFinish s)

/-- One action of `FG` in Boot-Wait: FRAME_POLL, or the read, the reset and the rest of STALL_CHECK
(R261, R262). -/
def bootAction (p : BootStep) (s : State) : Host.Outcome State Fault Refusal :=
  match p with
  | .framePoll => framePoll s
  | .stallCheck => .next (stallRead s)
  | .stallReset => .next (stallReset s)
  | .stallShow => .next (stallShow s)

/-- One action of MIDI_DRAIN: fetch a byte, decode it and run it; when the buffer is found empty the
drain ends (R265: "a model may make each MD.BYTE a step of its own"). -/
def drainAction (s : State) : Host.Outcome State Fault Refusal :=
  match s.midiRx with
  | [] => .next { s with pc := .run .cmdPoll }
  | b :: rest => exec (decodeByte s.cfg.status b) { s with midiRx := rest }

/-- One action of CMD_POLL: SCH.CMD_POLL as a whole, but for a new-frame notice, whose `TB.SW_RESET` is
an action of its own (20_memory.md R72 (2)). -/
def pollAction (s : State) : Host.Outcome State Fault Refusal :=
  if noticeNext s then .next (noticeReset s) else exec .schCmdPoll s

/-- One action of `FG` in Run (R264); SCAN is the two operations of `SC.CYCLE` (R267, 43_input_scanner.md
R210), GATE its read and its emission (R270). -/
def runAction (p : RunStep) (s : State) : Host.Outcome State Fault Refusal :=
  match p with
  | .midiDrain => drainAction s
  | .cmdPoll => pollAction s
  | .nfArm => .next (noticeArm s)
  | .scan => andThen (exec .scKeyscan s) (fun t => .next { t with pc := .run .knobLatch })
  | .knobLatch => andThen (exec .scKnobLatch s) (fun t => .next { t with pc := .run .gate })
  | .gate => .next (gateRead s)
  | .gateSend => .next (gateSend s)

/-- One action of `FG` (R260).  Inside `TB.SLEEP` it only polls the countdown (40_timebase.md R123); in
`Halted` it has no step, "for ever": the state stays (45_scheduler.md R272, log 7). -/
def foreground (s : State) : Host.Outcome State Fault Refusal :=
  if s.sleeping then .next (pollSleep s)
  else
    match s.pc with
    | .init p => initAction p s
    | .bootWait p => bootAction p s
    | .run p => runAction p s
    | .halted => .next s

/-- The move at the head of the schedule, or `FG`'s when the schedule is empty (log 5). -/
def nextMove (s : State) : Host.Outcome State Fault Refusal :=
  match s.sched with
  | [] => foreground s
  | e :: rest =>
    match e with
    | .go => foreground { s with sched := rest }
    | .tick => environment e { s with sched := rest }
    | .midiPush _ => environment e { s with sched := rest }
    | .framePush _ => environment e { s with sched := rest }
    | .pins _ => environment e { s with sched := rest }
    | .adcBatch _ => environment e { s with sched := rest }
    | .adcWrite _ _ => environment e { s with sched := rest }

/-- `s` with MIDI bytes stored where the drain fetches its next one: at the head of `midi_rx`, with the
sequencer at MIDI_DRAIN of `Run`, awake, and no other move scheduled before it. -/
def atNextFetch (bytes : List Byte) (s : State) : State :=
  { s with
    pc := .run .midiDrain
    sleeping := false
    sched := []
    midiRx := bytes ++ s.midiRx }

end Sys2Proof.Machine
end

