-- ==== Sys2Proof/Machine/Step.lean ====
section
/-! DEFINITION. The step function: one move of one agent. -/

namespace Sys2Proof.Machine

/-- One step of the block and its environment (20_memory.md R72, log 5, 6). -/
def step (s : State) : Host.Outcome State Fault Refusal := nextMove s

/-- `s` with the instruction whose table bits are `w` placed where the next step fetches (log 28). -/
def State.withFetchWord (s : State) (nbits w : Nat) : State := atNextFetch (tableBytes nbits w) s

end Sys2Proof.Machine
end

