-- ==== Sys2Proof/Safety.lean ====
section
/-! DEFINITION. The terms that claims about the block are stated in: ends of a run, the invariants of
the spec, whose turn it is, what a frame sequence holds. -/

namespace Sys2Proof.Machine

/-! ### Ends of a run (60_exceptions.md R304) -/

/-- "a proper end of run": halted by the shutdown command. -/
def State.properEnd (s : State) : Prop := s.pc = .halted ∧ s.haltReason = .shutdown

/-- "a failed launch": halted by an initialisation failure. -/
def State.failedLaunch (s : State) : Prop := s.pc = .halted ∧ s.haltReason = .initFailure

/-! ### Whose turn it is -/

/-- It is the foreground's turn in `s`, and `t` is `s` with that turn taken off the schedule (log 5). -/
def ForegroundTurn (s t : State) : Prop :=
  (s.sched = [] ∧ t = s) ∨ ∃ m, s.sched = .go :: m ∧ t = { s with sched := m }

/-- An input that the ports can carry (00_scope.md R7). -/
def Event.possible (c : Config) : Event → Prop
  | .go => True
  | .tick => True
  | .midiPush _ => True
  | .framePush _ => True
  | .pins levels => levels.length = c.nKeys
  | .adcBatch samples => samples.length = c.nAdc ∧ ∀ v ∈ samples, v.toNat < 2 ^ c.wSample
  | .adcWrite channel v => channel < c.nAdc ∧ v.toNat < 2 ^ c.wSample

/-- Every move still scheduled is one the ports can carry. -/
def State.inputsPossible (s : State) : Prop := ∀ e ∈ s.sched, e.possible s.cfg

/-! ### Invariants -/

/-- Each counter is a value of its width (10_state.md R21, R22, R23). -/
structure TimebaseInv (s : State) : Prop where
  ticks : s.ticks < 2 ^ s.cfg.wTicks
  countdown : s.countdown < 2 ^ s.cfg.wCountdown
  stopwatch : s.stopwatch < 2 ^ s.cfg.wStopwatch

/-- 10_state.md R26: `pending_event = none` implies both counters 0; `pending_event = e` implies
`bytes_needed = args(e)` and `bytes_received < bytes_needed`; passthrough implies no pending event.
The last data byte is a data byte. -/
structure DecoderInv (s : State) : Prop where
  idle : s.pendingEvent = none → s.bytesNeeded = 0 ∧ s.bytesReceived = 0
  awaiting : ∀ e, s.pendingEvent = some e →
    (classify s.cfg.status e).kind = .withArgs s.bytesNeeded ∧ s.bytesReceived < s.bytesNeeded
  passthrough : s.mode = .passthrough → s.pendingEvent = none
  lastData : s.lastDataByte.toNat < 128

/-- 42_live_state_blob.md R199: the sync position is below 24, controller slots and program are at most
127; and the cells are in canonical form, all of them bytes of the blob. -/
structure BlobInv (s : State) : Prop where
  canonical : Memory.wf s.blob = true
  inside : Memory.within s.cfg.blobSize s.blob = true
  sync : (blobRead s 21).toNat < 24
  controllers : ∀ a, 16 ≤ a → a < 21 → (blobRead s a).toNat < 128
  program : (blobRead s 22).toNat < 128

/-- Every buffer of the scanner has its fixed size (20_memory.md R60: "all buffers ... are
fixed-size"), the two indices stay inside theirs (10_state.md R34, R39), and samples have `W_SAMPLE`
bits (R37). -/
structure ScannerInv (s : State) : Prop where
  pins : s.pins.length = s.cfg.nKeys
  keyLast : s.keyLast.length = s.cfg.nKeys
  generations : s.keyGen.length = s.cfg.keyGenerations
  keyGen : ∀ g ∈ s.keyGen, g.length = s.cfg.nKeys
  generation : s.keyGeneration < s.cfg.keyGenerations
  slots : s.fsBuf.length = s.cfg.fsSlots
  slot : s.fsSlot < s.cfg.fsSlots
  knobs : s.knob.length = s.cfg.nKnobs
  samples : s.adcSample.length = s.cfg.nAdc
  sampleWidth : ∀ v ∈ s.adcSample, v.toNat < 2 ^ s.cfg.wSample
  knobWidth : ∀ v ∈ s.knob, v.toNat < 2 ^ s.cfg.wSample

/-- 10_state.md R41 to R43, R46, R28 and 40_timebase.md R121: the halt reason is set exactly in
`Halted`; the Timebase is armed once `TB.START` has run; progress is capped; a snapshot is pending only
after `Run` was entered, and is pending where GATE emits it; the receive buffer is within its capacity;
before `Run` nothing was sent; the filter is the start-up parameter. -/
structure SchedulerInv (s : State) : Prop where
  halt : s.pc = .halted ↔ s.haltReason ≠ .none
  armed : s.pc = .init .decoder ∨ s.phase = .bootWait ∨ s.phase = .run → s.tbArmed = true
  progress : s.bootProgress ≤ s.cfg.bootProgressMax
  pending : s.snapshotPending = true → s.phase = .run ∨ s.phase = .halted
  sending : s.pc = .run .gateSend → s.snapshotPending = true
  capacity : s.midiRx.length ≤ s.cfg.rxCap
  silent : s.phase = .init ∨ s.phase = .bootWait → s.out = []
  filter : s.channelFilter = s.cfg.channelFilterInit

/-- The invariant of the block: the configuration meets the spec's constraints, and the five parts
hold. -/
structure Inv (s : State) : Prop where
  config : s.cfg.wf = true
  timebase : TimebaseInv s
  decoder : DecoderInv s
  blob : BlobInv s
  scanner : ScannerInv s
  scheduler : SchedulerInv s

/-! ### Reading a state -/

/-- Note `n` is held: bit `n & 7` of byte `(n >> 3) & 0xF` (20_memory.md R68). -/
def noteHeld (s : State) (n : Nat) : Bool := (blobRead s (n / 8)).getLsbD (n % 8)

/-- How many frames of an address a sequence holds. -/
def countFrames (address : String) (fs : List Frame) : Nat :=
  (fs.filter (fun f => f.address = address)).length

/-- A notice that was taken and not yet answered, as a count: a pending snapshot, or the one that CMD_POLL
is about to arm. -/
def pendingCount (s : State) : Nat := if s.snapshotPending = true ∨ s.pc = .run .nfArm then 1 else 0

/-- Where GATE emits, a snapshot is pending: a part of `SchedulerInv`, which every step keeps. -/
def SendingIsPending (s : State) : Prop := s.pc = .run .gateSend → s.snapshotPending = true

/-- Do a list of operations one after the other. -/
def execAll : List Instr → State → Host.Outcome State Fault Refusal
  | [], s => .next s
  | i :: rest, s => andThen (exec i s) (execAll rest)

/-- Run `k` steps, stopping at the first fault or refusal. -/
def runSteps : Nat → State → Host.Outcome State Fault Refusal
  | 0, s => .next s
  | k + 1, s => andThen (step s) (runSteps k)

/-- Key scan cycles, one for each pin vector (43_input_scanner.md R213). -/
def keyCycles : List (List Bool) → State → Host.Outcome State Fault Refusal
  | [], s => .next s
  | p :: rest, s => andThen (exec .scKeyscan { s with pins := p }) (keyCycles rest)

/-- The channel filter passes events of the status byte `e` (41_midi_decoder.md R150). -/
def FilterPasses (s : State) (e : Byte) : Prop :=
  s.channelFilter.toNat = 0 ∨ s.channelFilter.toNat = e.toNat % 16 + 1 ∨ 0xF0 ≤ e.toNat

/-- The next data byte completes a message of the status byte `e` (41_midi_decoder.md R146). -/
def Completing (s : State) (e : Byte) : Prop :=
  s.mode = .normal ∧ s.pendingEvent = some e ∧ s.bytesReceived + 1 = s.bytesNeeded

end Sys2Proof.Machine
end

