-- ==== Sys2Proof/WellFormed.lean ====
section
/-! DEFINITION. Which operand values the spec admits. -/

namespace Sys2Proof

/-- A data byte as an operand: `0 .. 127` (30_encoding.md R96, 42_live_state_blob.md R191). -/
def dataOperand (b : Byte) : Bool := decide (b.toNat < 128)

/-- The operand ranges of the rules: blob operands are data bytes (R191, R192, R193, R196),
`0 <= n < 2^W_COUNTDOWN` for `TB.SLEEP n` (R123), a `W_SAMPLE`-bit sample for `SC.FS_POLL v` (R220).
Every other operand is in range by its type. -/
def Instr.wf (c : Config) : Instr → Bool
  | .noteOff _ => true
  | .noteOn _ => true
  | .polyPressure _ => true
  | .controlChange _ => true
  | .programChange _ => true
  | .channelPressure _ => true
  | .pitchBend _ => true
  | .vendorStart => true
  | .unlistedF1 => true
  | .songPosition => true
  | .songSelect => true
  | .unlistedF4 => true
  | .unlistedF5 => true
  | .tuneRequest => true
  | .vendorEnd => true
  | .clock => true
  | .unlistedF9 => true
  | .start => true
  | .cont => true
  | .stop => true
  | .unlistedFD => true
  | .activeSense => true
  | .systemReset => true
  | .data _ => true
  | .cmdReady => true
  | .cmdLed _ => true
  | .cmdShutdown => true
  | .cmdNf => true
  | .cmdGetknobs => true
  | .cmdUnmatched => true
  | .tbStart => true
  | .tbTick => true
  | .tbSleep n => decide (n < 2 ^ c.wCountdown)
  | .tbSwReset => true
  | .tbSwRead => true
  | .mdInit _ => true
  | .mdByte _ => true
  | .blNoteOn note => dataOperand note
  | .blNoteOff note => dataOperand note
  | .blSetController cc value => dataOperand cc && dataOperand value
  | .blAdvanceSync => true
  | .blResetSync => true
  | .blSetProgram value => dataOperand value
  | .blSnapshot => true
  | .scCycle => true
  | .scKeyscan => true
  | .scKnobLatch => true
  | .scFsPoll v => decide (v.toNat < 2 ^ c.wSample)
  | .schInit _ => true
  | .schBootIter => true
  | .schRunIter => true
  | .schMidiDrain => true
  | .schCmdPoll => true
  | .schScan => true
  | .schGate => true
  | .schShutdown => true

end Sys2Proof
end

