-- ==== Sys2Proof/Certificates/Slice0/Obligations.lean ====
section
/-! DEFINITION. The statements for the provers.  Each docstring names the rule of spec/ it formalises. -/

open Sys2Proof Sys2Proof.Machine

/-! ### Encoding -/

/-- 30_encoding.md R93, R95, R96: under every status map in which each class stands once, every
instruction that has an encoding is read back from its bytes, with every operand at every value,
whatever follows. Rests on the spec's status map, D7 (log 4). -/
def Obligations.EncodedInstructionDecodes : Prop :=
  ∀ (m : StatusMap) (i : Instr) (rest : List Byte), m.wf = true → encode m i ≠ [] →
    decode m (encode m i ++ rest) = .ok i rest

/-- 30_encoding.md R94: the rows cover every byte value exactly once: each byte decodes, its row
encodes to that byte, and no other instruction does. Rests on the spec's status map, D7 (log 4). -/
def Obligations.EveryByteIsOneInstruction : Prop :=
  ∀ (m : StatusMap) (b : Byte) (rest : List Byte), m.wf = true →
    decode m (b :: rest) = .ok (decodeByte m b) rest ∧ encode m (decodeByte m b) = [b] ∧
    ∀ i : Instr, encode m i = [b] → i = decodeByte m b

/-- 30_encoding.md R93, R95, R96: words written out from the status map decode to their rows. Rests
on the spec's status map, D7 (log 4). -/
def Obligations.SpecWordsDecode : Prop :=
  decode .midi [0b10000000#8] = .ok (.noteOff 0) [] ∧
  decode .midi [0b10011111#8] = .ok (.noteOn 15) [] ∧
  decode .midi [0b10110010#8] = .ok (.controlChange 2) [] ∧
  decode .midi [0b11000101#8] = .ok (.programChange 5) [] ∧
  decode .midi [0b11110000#8] = .ok .vendorStart [] ∧
  decode .midi [0b11110111#8] = .ok .vendorEnd [] ∧
  decode .midi [0b11111000#8] = .ok .clock [] ∧
  decode .midi [0b00111100#8] = .ok (.data 60) []

/-- 44_command_strobes.md R240, R241, R247, R248: an address selects its command exactly when its
route is enabled; `/led` needs an integer; every other frame is unmatched; in Boot-Wait only
`/ready` counts. Rests on the spec's decisions D25, D26 (log 22). -/
def Obligations.FramesSelectCommands : Prop :=
  (∀ f : Frame, bootCommand f = if f.address = "/ready" then .ready else .unmatched) ∧
  (∀ (r : Routes) (v : Word) (args : List Arg),
    runCommand r ⟨"/led", .int v :: args⟩ = if r.led then .led v else .unmatched) ∧
  (∀ (r : Routes) (bytes : List Byte) (args : List Arg),
    runCommand r ⟨"/led", []⟩ = .unmatched ∧
    runCommand r ⟨"/led", .blob bytes :: args⟩ = .unmatched) ∧
  (∀ (r : Routes) (args : List Arg),
    runCommand r ⟨"/shutdown", args⟩ = (if r.shutdown then .shutdown else .unmatched) ∧
    runCommand r ⟨"/nf", args⟩ = (if r.nf then .nf else .unmatched) ∧
    runCommand r ⟨"/getknobs", args⟩ = (if r.getknobs then .getknobs else .unmatched)) ∧
  (∀ (r : Routes) (f : Frame), f.address ∉ ["/led", "/shutdown", "/nf", "/getknobs"] →
    runCommand r f = .unmatched)

/-! ### The step -/

/-- 45_scheduler.md R265, 20_memory.md R78: with a byte at the head of `midi_rx` and the foreground
at MIDI_DRAIN, the step removes it and is `exec` of the instruction it decodes to; with none the
drain ends. That one byte is one step of its own is the model's choice (log 5, 6). -/
def Obligations.StepRunsDecodedByte : Prop :=
  ∀ s t : State, ForegroundTurn s t → s.sleeping = false → s.pc = .run .midiDrain →
    (∀ (b : Byte) (rest : List Byte), s.midiRx = b :: rest →
      step s = exec (decodeByte s.cfg.status b) { t with midiRx := rest }) ∧
    (s.midiRx = [] → step s = .next { t with pc := .run .cmdPoll })

/-- 45_scheduler.md R260, R261, R262, R264, R273, R266, R267, R270, 20_memory.md R72: what a turn of the
foreground runs at each position of `Init`, `BootWait` and `Run` but MIDI_DRAIN, whatever fell before it.
Inside SCH.INIT, the stall check, CMD.NF, SC.CYCLE and SCH.GATE the step ends at the points where a tick
may fall: after `TB.START`, after `TB.SW_READ`, after `TB.SW_RESET`, after `SC.KEYSCAN`. So the stall
check, once it has read a stopwatch past the threshold, resets it whatever ticks came since, and ticks
after the reset count. That this is the grain of a step is the model's choice (log 5, 6), as is what the
display keeps (log 14). -/
def Obligations.StepRunsSelectedOperation : Prop :=
  ∀ s t : State, ForegroundTurn s t → s.sleeping = false →
    (s.pc = .init .start → s.initOk = true → ∃ u, exec .tbStart t = .next u ∧
      step s = .next { u with pc := .init .decoder }) ∧
    (s.pc = .init .start → s.initOk = false → step s = exec (.schInit false) t) ∧
    (s.pc = .init .decoder → ∃ u, exec (.mdInit s.cfg.channelFilterInit) t = .next u ∧
      step s = .next { u with pc := .bootWait .framePoll }) ∧
    (s.pc = .bootWait .framePoll → s.cmdRx = [] →
      step s = .next { t with pc := .bootWait .stallCheck }) ∧
    (∀ f rest, s.pc = .bootWait .framePoll → s.cmdRx = f :: rest →
      (f.address = "/ready" → step s = exec .cmdReady { t with cmdRx := rest }) ∧
      (f.address ≠ "/ready" →
        step s = .next { t with cmdRx := rest, pc := .bootWait .stallCheck })) ∧
    (s.pc = .bootWait .stallCheck → step s = .next { t with
      pc := .bootWait (if s.cfg.bootStallThreshold < s.stopwatch then .stallReset else .framePoll) }) ∧
    (s.pc = .bootWait .stallReset → ∃ u, exec .tbSwReset t = .next u ∧
      step s = .next { u with pc := .bootWait .stallShow }) ∧
    (s.pc = .bootWait .stallShow → ∃ u, step s = .next u ∧
      u.bootProgress = min (s.bootProgress + 1) s.cfg.bootProgressMax ∧
      u.display = s.display ++ (if s.cfg.hasDisplay then [.drawProgress u.bootProgress] else []) ∧
      u = { t with
        bootProgress := u.bootProgress, display := u.display, pc := .bootWait .framePoll }) ∧
    (s.pc = .run .cmdPoll →
      (∀ f ∈ s.cmdRx.head?, runCommand s.cfg.routes f ≠ .nf) → step s = exec .schCmdPoll t) ∧
    (∀ f rest, s.pc = .run .cmdPoll → s.cmdRx = f :: rest → runCommand s.cfg.routes f = .nf →
      ∃ u, exec .tbSwReset { t with cmdRx := rest } = .next u ∧
        step s = .next { u with pc := .run .nfArm }) ∧
    (s.pc = .run .nfArm → step s = .next { t with snapshotPending := true, pc := .run .scan }) ∧
    (s.pc = .run .scan → ∃ u, exec .scKeyscan t = .next u ∧
      step s = .next { u with pc := .run .knobLatch }) ∧
    (∀ u, s.pc = .run .knobLatch → exec .scKnobLatch t = .next u →
      step s = .next { u with pc := .run .gate }) ∧
    (s.pc = .run .gate → step s = .next { t with
      pc := .run (if s.snapshotPending = true ∧ s.cfg.gateThreshold < s.stopwatch then .gateSend
        else .midiDrain) }) ∧
    (s.pc = .run .gateSend → ∃ u, exec .blSnapshot t = .next u ∧
      step s = .next { t with
        out := s.out ++ [⟨"/mblob", [.blob ((List.range s.cfg.blobSize).map (blobRead s))]⟩,
          ⟨"/knobs", s.knob.map (fun v => .int (BitVec.ofNat 32 v.toNat))⟩],
        blob := u.blob, snapshotPending := false, pc := .run .midiDrain })

/-- 41_midi_decoder.md R141, 30_encoding.md R109: `MD.BYTE b` "dispatches on the 24 byte rows": it
does exactly what the row `b` decodes to does, in every state. Rests on the spec's status map, D7,
and its decision D8 (log 4, 17). -/
def Obligations.MdByteIsItsRow : Prop :=
  ∀ (b : Byte) (s : State), s.cfg.status.wf = true →
    exec (.mdByte b) s = exec (decodeByte s.cfg.status b) s

/-- 00_scope.md R6, R7: the environment's moves change their port and nothing else. The order of
moves, the overflow and the refusal are the model's choices (log 5, 13, 27), the rewrite of one
sample is log 32. -/
def Obligations.InputsLandOnTheirPorts : Prop :=
  ∀ (s : State) (m : List Event),
    (∀ f, s.sched = .framePush f :: m →
      step s = .next { s with sched := m, cmdRx := s.cmdRx ++ [f] }) ∧
    (∀ b, s.sched = .midiPush b :: m → s.midiRx.length < s.cfg.rxCap →
      step s = .next { s with sched := m, midiRx := s.midiRx ++ [b] }) ∧
    (∀ b, s.sched = .midiPush b :: m → s.cfg.rxCap ≤ s.midiRx.length →
      ∃ t, step s = .next t ∧ t.midiRx.length ≤ s.cfg.rxCap ∧
        t = { s with sched := m, midiRx := t.midiRx, freeCount := t.freeCount }) ∧
    (∀ l, s.sched = .pins l :: m → l.length = s.cfg.nKeys →
      step s = .next { s with sched := m, pins := l }) ∧
    (∀ l, s.sched = .adcBatch l :: m → l.length = s.cfg.nAdc →
      (∀ v ∈ l, v.toNat < 2 ^ s.cfg.wSample) →
      step s = .next { s with sched := m, adcSample := l, adcBatchComplete := true }) ∧
    (∀ c v, s.sched = .adcWrite c v :: m → c < s.cfg.nAdc → v.toNat < 2 ^ s.cfg.wSample →
      step s = .next { s with sched := m, adcSample := s.adcSample.set c v }) ∧
    (∀ e, s.sched = e :: m → ¬ e.possible s.cfg → step s = .refused .impossibleInput)

/-! ### Timebase -/

/-- 40_timebase.md R122, R121, 60_exceptions.md R291, R292: `TB.TICK` makes the three counter updates,
the countdown saturating at zero, the other two modulo their widths, and changes nothing else; a tick
event is one `TB.TICK` once the Timebase is armed, and "before it, `IRQ` has no step". Rests on the
spec's decisions D2, D3, D4, D5 (log 3, 16); the schedule is log 5. -/
def Obligations.TickUpdatesCounters : Prop :=
  (∀ s : State, ∃ t, exec .tbTick s = .next t ∧
    t.countdown = s.countdown - 1 ∧
    t.stopwatch = (s.stopwatch + 1) % 2 ^ s.cfg.wStopwatch ∧
    t.ticks = (s.ticks + 1) % 2 ^ s.cfg.wTicks ∧
    t = { s with countdown := t.countdown, stopwatch := t.stopwatch, ticks := t.ticks }) ∧
  (∀ (s : State) (m : List Event), s.sched = .tick :: m →
    (s.tbArmed = true → step s = exec .tbTick { s with sched := m }) ∧
    (s.tbArmed = false → step s = .next { s with sched := m }))

/-- 40_timebase.md R121, R123, R124, R125: the foreground operations of the Timebase. How the wait
and the returned value are held is the model's choice (log 24, 25). -/
def Obligations.TimebaseOperations : Prop :=
  ∀ s : State,
    exec .tbStart s = .next { s with tbArmed := true } ∧
    exec .tbSwReset s = .next { s with stopwatch := 0 } ∧
    exec .tbSwRead s = .next { s with ret := .count s.stopwatch } ∧
    exec (.tbSleep 0) s = .next { s with countdown := 0, sleeping := false } ∧
    (∀ n : Nat, 0 < n → n < 2 ^ s.cfg.wCountdown →
      exec (.tbSleep n) s = .next { s with countdown := n, sleeping := true }) ∧
    (∀ n : Nat, 2 ^ s.cfg.wCountdown ≤ n → exec (.tbSleep n) s = .refused (.sleepOperandOutOfRange n))

/-- 40_timebase.md R123: "The wait ends after exactly n TB.TICK steps have followed the write":
after `k` of them the countdown is `n - k`, and the foreground's next poll leaves the wait exactly
when `k = n`. The schedule and the polling are the model's (log 5, 24). -/
def Obligations.SleepLastsItsTicks : Prop :=
  ∀ (s : State) (n k : Nat), 0 < n → n < 2 ^ s.cfg.wCountdown → k ≤ n → s.tbArmed = true →
    ∃ t u w, exec (.tbSleep n) s = .next t ∧
      runSteps k { t with sched := List.replicate k .tick } = .next u ∧
      u.countdown = n - k ∧ u.sleeping = true ∧ u.sched = [] ∧
      step u = .next w ∧ w.sleeping = decide (k < n) ∧ w = { u with sleeping := w.sleeping }

/-- 40_timebase.md R125: the result of `TB.SW_READ` is the number of ticks since `TB.SW_RESET`,
modulo 2^`W_STOPWATCH`. Rests on R125's derived sentence and D2, D4 (log 3); the schedule is log 5. -/
def Obligations.StopwatchCountsTicks : Prop :=
  ∀ (s : State) (n : Nat), s.tbArmed = true →
    ∃ t u w, exec .tbSwReset s = .next t ∧
      runSteps n { t with sched := List.replicate n .tick } = .next u ∧
      exec .tbSwRead u = .next w ∧ w.ret = .count (n % 2 ^ s.cfg.wStopwatch)

/-- 10_state.md R20, R21, R22, 70_reset_and_hazards.md R341, 45_scheduler.md R272: "only the interrupt
handler decrements `countdown`/increments `stopwatch`; all other code only reads or resets": a step that
is not a tick leaves the countdown and `ticks`, and leaves or clears the stopwatch. Rests on D3 for
`ticks` (log 3); that no step loads the countdown rests on R341 and D36 (no rule calls TB.SLEEP in
`Run`, log 24) and, at shutdown, where R272 says that the routine may use TB.SLEEP, on D27: the routine
is one transition (log 29). -/
def Obligations.OnlyTicksMoveCounters : Prop :=
  ∀ s t : State, step s = .next t → (∀ m, s.sched ≠ .tick :: m) →
    t.countdown = s.countdown ∧ t.ticks = s.ticks ∧ (t.stopwatch = s.stopwatch ∨ t.stopwatch = 0)

/-! ### Decoder -/

/-- 41_midi_decoder.md R143, 30_encoding.md R93: outside passthrough a status byte of a class with
arguments becomes the pending event, with its argument count and the counter at 0; under the map of
R93 the byte is the one listed. Rests on the spec's status map, D7 (log 4). -/
def Obligations.StatusBytesAwaitArguments : Prop :=
  ∀ (s : State) (c : BitVec 4) (i : Instr) (n : Nat) (byte : Byte), s.mode = .normal →
    (i, n, byte) ∈ [(.noteOff c, 2, 0x80#8 + c.setWidth 8), (.noteOn c, 2, 0x90#8 + c.setWidth 8),
      (.polyPressure c, 2, 0xA0#8 + c.setWidth 8), (.controlChange c, 2, 0xB0#8 + c.setWidth 8),
      (.programChange c, 1, 0xC0#8 + c.setWidth 8), (.channelPressure c, 1, 0xD0#8 + c.setWidth 8),
      (.pitchBend c, 2, 0xE0#8 + c.setWidth 8), (.songPosition, 2, 0xF2#8),
      (.songSelect, 1, 0xF3#8)] →
    ∃ b, encode s.cfg.status i = [b] ∧ (s.cfg.status = .midi → b = byte) ∧
      exec i s = .next { s with pendingEvent := some b, bytesNeeded := n, bytesReceived := 0 }

/-- 41_midi_decoder.md R142, 30_encoding.md R101: in passthrough every byte but the end marker is
forwarded to the sink and no register changes. Rests on R142's derived sentence (log 17). -/
def Obligations.PassthroughForwards : Prop :=
  ∀ (s : State) (i : Instr) (b : Byte), s.mode = .passthrough → encode s.cfg.status i = [b] →
    i ≠ .vendorEnd → exec i s = .next { s with passthroughSink := s.passthroughSink ++ [.byte b] }

/-- 41_midi_decoder.md R163 to R166, R176: clock, start, continue and stop fire their event, return
to `Idle`, move or clear the sync position, and send their frame. Rests on the spec's decisions D12,
D13, D15 (log 18); the event record is log 15. -/
def Obligations.TransportBytes : Prop :=
  ∀ s : State, s.cfg.wf = true → s.mode = .normal →
    (∃ t, exec .clock s = .next t ∧ t.fired = s.fired ++ [.clock] ∧
      t.out = s.out ++ (if s.cfg.forwardEvents then [⟨"/msync", [.int s.cfg.transportArg]⟩] else []) ∧
      (blobRead t 21).toNat =
        (if s.cfg.updateBlob then ((blobRead s 21).toNat + 1) % 24 else (blobRead s 21).toNat) ∧
      (∀ a, a ≠ 21 → blobRead t a = blobRead s a) ∧
      t = { s with
        pendingEvent := none, bytesNeeded := 0, bytesReceived := 0, fired := t.fired,
        out := t.out, blob := t.blob }) ∧
    (∃ t, exec .start s = .next t ∧ t.fired = s.fired ++ [.start] ∧
      t.out = s.out ++ (if s.cfg.forwardEvents then [⟨"/mstart", [.int s.cfg.transportArg]⟩] else []) ∧
      blobRead t 21 = (if s.cfg.updateBlob then 0#8 else blobRead s 21) ∧
      (∀ a, a ≠ 21 → blobRead t a = blobRead s a) ∧
      t = { s with
        pendingEvent := none, bytesNeeded := 0, bytesReceived := 0, fired := t.fired,
        out := t.out, blob := t.blob }) ∧
    (∃ t, exec .cont s = .next t ∧ t.fired = s.fired ++ [.cont] ∧
      t.out = s.out ++ (if s.cfg.forwardEvents then [⟨"/mcont", [.int s.cfg.transportArg]⟩] else []) ∧
      blobRead t 21 = (if s.cfg.updateBlob then 0#8 else blobRead s 21) ∧
      (∀ a, a ≠ 21 → blobRead t a = blobRead s a) ∧
      t = { s with
        pendingEvent := none, bytesNeeded := 0, bytesReceived := 0, fired := t.fired,
        out := t.out, blob := t.blob }) ∧
    (∃ t, exec .stop s = .next t ∧ t.fired = s.fired ++ [.stop] ∧
      t.out = s.out ++ (if s.cfg.forwardEvents then [⟨"/mstop", [.int s.cfg.transportArg]⟩] else []) ∧
      t = { s with
        pendingEvent := none, bytesNeeded := 0, bytesReceived := 0, fired := t.fired,
        out := t.out })

/-- 41_midi_decoder.md R161, R167, R168, R149, R169: outside passthrough tune request, active sense
and reset fire their event and return to `Idle`, an unlisted byte returns to `Idle` with no event,
and nothing else happens. Rests on the spec's decision D8 (log 17); the event record is log 15. -/
def Obligations.BytesThatOnlyGoIdle : Prop :=
  ∀ s : State, s.mode = .normal →
    exec .tuneRequest s = .next { s with
      pendingEvent := none, bytesNeeded := 0, bytesReceived := 0,
      fired := s.fired ++ [.tuneRequest] } ∧
    exec .activeSense s = .next { s with
      pendingEvent := none, bytesNeeded := 0, bytesReceived := 0,
      fired := s.fired ++ [.activeSense] } ∧
    exec .systemReset s = .next { s with
      pendingEvent := none, bytesNeeded := 0, bytesReceived := 0,
      fired := s.fired ++ [.systemReset] } ∧
    ∀ i ∈ [Instr.unlistedF1, .unlistedF4, .unlistedF5, .unlistedF9, .unlistedFD],
      exec i s = .next { s with pendingEvent := none, bytesNeeded := 0, bytesReceived := 0 }

/-- 41_midi_decoder.md R145, R148: the start marker outside passthrough enters it with the entry
hook; the end marker leaves it with the exit hook in every state, and is not forwarded. Rests on the
spec's decision D11 (log 17); what the sink receives is log 15. -/
def Obligations.VendorMarkers : Prop :=
  ∀ s : State,
    (s.mode = .normal → exec .vendorStart s = .next { s with
      mode := .passthrough, pendingEvent := none, bytesNeeded := 0, bytesReceived := 0,
      passthroughSink := s.passthroughSink ++ [.enter],
      fired := s.fired ++ [.passthroughEnter] }) ∧
    exec .vendorEnd s = .next { s with
      mode := .normal, pendingEvent := none, bytesNeeded := 0, bytesReceived := 0,
      passthroughSink := s.passthroughSink ++ [.exit],
      fired := s.fired ++ [.passthroughExit] }

/-- 41_midi_decoder.md R146, R150, R170: a data byte in `Idle` is only recorded; one that does not
complete a message counts; one that completes a message the filter does not pass resets the counter
and fires nothing. Rests on the spec's decisions D9, D10 (log 17). -/
def Obligations.DataByteFraming : Prop :=
  ∀ (s : State) (d : BitVec 7), s.mode = .normal →
    (s.pendingEvent = none → exec (.data d) s = .next { s with lastDataByte := d.setWidth 8 }) ∧
    (∀ e, s.pendingEvent = some e → s.bytesReceived + 1 ≠ s.bytesNeeded →
      exec (.data d) s = .next { s with
        bytesReceived := s.bytesReceived + 1, lastDataByte := d.setWidth 8 }) ∧
    (∀ e, Completing s e → ¬ FilterPasses s e →
      exec (.data d) s = .next { s with bytesReceived := 0, lastDataByte := d.setWidth 8 })

/-- 41_midi_decoder.md R151, R152, R176, 30_encoding.md R97: a completed note message fires one note
event with the channel, note and velocity of its bytes, velocity 0 making a note-on a note-off; the
note's bit and no other follows, and one frame is sent. Rests on the spec's decisions D10, D12, D13,
D14, D17 (log 17, 18, 19); the event record is log 15. -/
def Obligations.CompletedNoteMessage : Prop :=
  ∀ (s : State) (e : Byte) (d : BitVec 7), Completing s e → FilterPasses s e →
    (classify s.cfg.status e = .noteOff ∨ classify s.cfg.status e = .noteOn) →
    ∃ t, exec (.data d) s = .next t ∧
      t.fired = s.fired ++
        [if classify s.cfg.status e = .noteOn ∧ d ≠ 0#7 then
          .noteOn (BitVec.ofNat 8 (e.toNat % 16 + 1)) s.lastDataByte (d.setWidth 8)
        else .noteOff (BitVec.ofNat 8 (e.toNat % 16 + 1)) s.lastDataByte (d.setWidth 8)] ∧
      t.out = s.out ++
        (if s.cfg.forwardEvents then
          [⟨if classify s.cfg.status e = .noteOn ∧ d ≠ 0#7 then "/mnon" else "/mnoff",
            [.int (BitVec.ofNat 32 (e.toNat % 16 + 1)),
             .int (BitVec.ofNat 32 s.lastDataByte.toNat),
             .int (BitVec.ofNat 32 d.toNat)]⟩]
        else []) ∧
      (∀ n, n < 128 → noteHeld t n =
        if s.cfg.updateBlob = true ∧ n = s.lastDataByte.toNat % 128 then
          decide (classify s.cfg.status e = .noteOn ∧ d ≠ 0#7)
        else noteHeld s n) ∧
      (∀ a, 16 ≤ a → blobRead t a = blobRead s a) ∧
      t = { s with
        bytesReceived := 0, lastDataByte := d.setWidth 8, fired := t.fired, out := t.out,
        blob := t.blob }

/-- 41_midi_decoder.md R154, R155, R176: a completed control change writes the slots of its
controller, a completed program change the program byte; each fires one event and sends one frame.
Rests on the spec's decisions D10, D12, D13, D14, D16, D18 (log 17, 18, 19); the event record is log
15. -/
def Obligations.CompletedControlOrProgram : Prop :=
  ∀ (s : State) (e : Byte) (d : BitVec 7), Completing s e → FilterPasses s e →
    (classify s.cfg.status e = .controlChange → ∃ t, exec (.data d) s = .next t ∧
      t.fired = s.fired ++
        [.controlChange (BitVec.ofNat 8 (e.toNat % 16 + 1)) s.lastDataByte (d.setWidth 8)] ∧
      t.out = s.out ++
        (if s.cfg.forwardEvents then
          [⟨"/mcc", [.int (BitVec.ofNat 32 (e.toNat % 16 + 1)),
            .int (BitVec.ofNat 32 s.lastDataByte.toNat), .int (BitVec.ofNat 32 d.toNat)]⟩]
        else []) ∧
      (∀ k : Fin 5, blobRead t (16 + k) =
        if s.cfg.updateBlob = true ∧ s.cfg.ccSlot[k] = s.lastDataByte then d.setWidth 8
        else blobRead s (16 + k)) ∧
      (∀ a, a < 16 ∨ 21 ≤ a → blobRead t a = blobRead s a) ∧
      t = { s with
        bytesReceived := 0, lastDataByte := d.setWidth 8, fired := t.fired, out := t.out,
        blob := t.blob }) ∧
    (classify s.cfg.status e = .programChange → ∃ t, exec (.data d) s = .next t ∧
      t.fired = s.fired ++ [.programChange (BitVec.ofNat 8 (e.toNat % 16 + 1)) (d.setWidth 8)] ∧
      t.out = s.out ++
        (if s.cfg.forwardEvents then
          [⟨"/mpc", [.int (BitVec.ofNat 32 (e.toNat % 16 + 1)), .int (BitVec.ofNat 32 d.toNat)]⟩]
        else []) ∧
      blobRead t 22 = (if s.cfg.updateBlob then d.setWidth 8 else blobRead s 22) ∧
      (∀ a, a ≠ 22 → blobRead t a = blobRead s a) ∧
      t = { s with
        bytesReceived := 0, lastDataByte := d.setWidth 8, fired := t.fired, out := t.out,
        blob := t.blob })

/-- 41_midi_decoder.md R153, R156, R157, R159, R160: the messages that are not meaningful fire their
event and have no other effect than framing. Rests on the spec's decisions D10, D12 (log 17, 18);
the event record is log 15. -/
def Obligations.CompletedSilentMessage : Prop :=
  ∀ (s : State) (e : Byte) (d : BitVec 7) (ev : MidiEvent), Completing s e → FilterPasses s e →
    ((classify s.cfg.status e = .polyPressure ∧
        ev = .polyPressure (BitVec.ofNat 8 (e.toNat % 16 + 1)) s.lastDataByte (d.setWidth 8)) ∨
      (classify s.cfg.status e = .channelPressure ∧
        ev = .channelPressure (BitVec.ofNat 8 (e.toNat % 16 + 1)) (d.setWidth 8)) ∨
      (classify s.cfg.status e = .pitchBend ∧
        ev = .pitchBend (BitVec.ofNat 8 (e.toNat % 16 + 1)) s.lastDataByte (d.setWidth 8)) ∨
      (classify s.cfg.status e = .songPosition ∧ ev = .songPosition s.lastDataByte (d.setWidth 8)) ∨
      (classify s.cfg.status e = .songSelect ∧ ev = .songSelect (d.setWidth 8))) →
    exec (.data d) s = .next { s with
      bytesReceived := 0, lastDataByte := d.setWidth 8, fired := s.fired ++ [ev] }

/-- 41_midi_decoder.md R178, R171: a complete note-on or note-off message and a further pair under
running status, met at the head of the receive buffer in any decoder state outside passthrough, give
exactly two note events with their channel, note and velocity (none when the filter does not pass the
channel); under a note-on status byte a velocity of 0 always gives a note-off. The event record is log
15; one byte a step is log 6; the status byte is the map's, D7 (log 4). -/
def Obligations.RunningStatusNotes : Prop :=
  ∀ (s : State) (c : BitVec 4) (i : Instr) (b : Byte) (n v n' v' : BitVec 7) (rest : List Byte),
    s.cfg.status.wf = true → s.sched = [] → s.sleeping = false → s.pc = .run .midiDrain →
    s.mode = .normal → i = .noteOn c ∨ i = .noteOff c → encode s.cfg.status i = [b] →
    s.midiRx = [b, n.setWidth 8, v.setWidth 8, n'.setWidth 8, v'.setWidth 8] ++ rest →
    ∃ t, runSteps 5 s = .next t ∧ t.midiRx = rest ∧
      t.pendingEvent = some b ∧ t.bytesReceived = 0 ∧
      t.fired = s.fired ++
        (if s.channelFilter.toNat = 0 ∨ s.channelFilter.toNat = c.toNat + 1 then
          [if i = .noteOn c ∧ v ≠ 0#7 then
              .noteOn (BitVec.ofNat 8 (c.toNat + 1)) (n.setWidth 8) (v.setWidth 8)
            else .noteOff (BitVec.ofNat 8 (c.toNat + 1)) (n.setWidth 8) (v.setWidth 8),
           if i = .noteOn c ∧ v' ≠ 0#7 then
              .noteOn (BitVec.ofNat 8 (c.toNat + 1)) (n'.setWidth 8) (v'.setWidth 8)
            else .noteOff (BitVec.ofNat 8 (c.toNat + 1)) (n'.setWidth 8) (v'.setWidth 8)]
        else [])

/-- 41_midi_decoder.md R172, R143, R144, R145, R148, R149: a status byte met outside passthrough discards
a partial message: the counter is 0, the last data byte is as it was, the pending event and its count
are those of the byte's class alone, and what is fired is the byte's own event, which its class fixes:
one for a zero-argument class and for each marker, none for a class with arguments and for an unlisted
byte. Rests on R172's derived sentence, on the spec's decisions D8, D11 (log 17) and its status map, D7
(log 4); the event record is log 15. -/
def Obligations.StatusByteDiscardsPartialMessage : Prop :=
  ∀ (s : State) (i : Instr) (b : Byte), s.cfg.status.wf = true → s.mode = .normal →
    encode s.cfg.status i = [b] → 128 ≤ b.toNat →
    ∃ t, exec i s = .next t ∧ t.bytesReceived = 0 ∧ t.lastDataByte = s.lastDataByte ∧
      (∀ n, (classify s.cfg.status b).kind = .withArgs n →
        t.pendingEvent = some b ∧ t.bytesNeeded = n) ∧
      ((∀ n, (classify s.cfg.status b).kind ≠ .withArgs n) →
        t.pendingEvent = none ∧ t.bytesNeeded = 0) ∧
      t.fired = s.fired ++
        (if classify s.cfg.status b = .vendorStart then [.passthroughEnter]
        else if classify s.cfg.status b = .vendorEnd then [.passthroughExit]
        else (immediateEvent (classify s.cfg.status b)).toList)

/-- 41_midi_decoder.md R174, R141, R176, R177: `MD.BYTE` is defined for every byte in every state, fires at
most one handler, gives at most one item to the sink, and changes only the decoder's registers and the
outputs: the blob and `out` change only by the handler of the one event fired, each half under its switch.
Rests on the spec's decisions D12, D13 (log 18); that the fired events and the sink's items are kept as
sequences is log 15. -/
def Obligations.MdByteIsTotal : Prop :=
  ∀ (b : Byte) (s : State), ∃ t, exec (.mdByte b) s = .next t ∧
    ((t.fired = s.fired ∧ t.out = s.out ∧ t.blob = s.blob) ∨
      ∃ ev, t.fired = s.fired ++ [ev] ∧
        t.out = s.out ++
          (if s.cfg.forwardEvents then (eventFrame s.cfg.transportArg ev).toList else []) ∧
        t.blob = (if s.cfg.updateBlob then (eventBlob ev s).blob else s.blob)) ∧
    (t.passthroughSink = s.passthroughSink ∨
      ∃ x, t.passthroughSink = s.passthroughSink ++ [x]) ∧
    t = { s with
      mode := t.mode, pendingEvent := t.pendingEvent, bytesNeeded := t.bytesNeeded,
      bytesReceived := t.bytesReceived, lastDataByte := t.lastDataByte, blob := t.blob,
      out := t.out, passthroughSink := t.passthroughSink, fired := t.fired }

/-! ### Blob -/

/-- 42_live_state_blob.md R191, R192: `BL.NOTE_ON` sets and `BL.NOTE_OFF` clears bit `note & 7` of byte
`(note >> 3) & 0xF`; every other bit of the blob, and everything else, is unchanged. The rules give the
operand as 0 to 127; that a byte of 128 or more runs through the same formula is the model's choice (log
26). -/
def Obligations.NoteOperationsWriteTheirBit : Prop :=
  ∀ (s : State) (note : Byte),
    (∃ t, exec (.blNoteOn note) s = .next t ∧
      (∀ a k, k < 8 → (blobRead t a).getLsbD k =
        if a = note.toNat / 8 % 16 ∧ k = note.toNat % 8 then true
        else (blobRead s a).getLsbD k) ∧
      t = { s with blob := t.blob }) ∧
    (∃ t, exec (.blNoteOff note) s = .next t ∧
      (∀ a k, k < 8 → (blobRead t a).getLsbD k =
        if a = note.toNat / 8 % 16 ∧ k = note.toNat % 8 then false
        else (blobRead s a).getLsbD k) ∧
      t = { s with blob := t.blob })

/-- 42_live_state_blob.md R198: after any sequence of note operations on notes 0 to 127, a note's bit is
what the last operation on it made it, and its old value when there was none; after reset it is 0. -/
def Obligations.LastNoteOperationWins : Prop :=
  (∀ (c : Config) (n : Nat), noteHeld (State.resetOf c) n = false) ∧
  ∀ (ops : List (Bool × BitVec 7)) (s : State),
    ∃ t, execAll (ops.map fun o =>
        if o.1 then .blNoteOn (o.2.setWidth 8) else .blNoteOff (o.2.setWidth 8)) s = .next t ∧
      ∀ n : BitVec 7, noteHeld t n.toNat =
        match (ops.filter (fun o => o.2 = n)).getLast? with
        | some o => o.1
        | none => noteHeld s n.toNat

/-- 42_live_state_blob.md R193: the value goes into every slot whose whitelisted number is `cc`; for
a number outside the whitelist nothing is written. Rests on the spec's decisions D16, D18 (log 19).
The rule gives both operands as 0 to 127; that one of 128 or more is compared and written in the same
way is the model's choice (log 26). -/
def Obligations.SetControllerWritesItsSlots : Prop :=
  ∀ (s : State) (cc value : Byte), ∃ t, exec (.blSetController cc value) s = .next t ∧
    (∀ k : Fin 5, blobRead t (16 + k) =
      if s.cfg.ccSlot[k] = cc then value else blobRead s (16 + k)) ∧
    (∀ a, a < 16 ∨ 21 ≤ a → blobRead t a = blobRead s a) ∧
    t = { s with blob := t.blob }

/-- 42_live_state_blob.md R194: with `SYNC_MODULUS` at its value of 00_scope.md R8, `BL.ADVANCE_SYNC` adds
1 modulo 24 to the sync byte; `k` of them from 0 give `k` modulo 24, so 24 give 0 and 23 give 23. -/
def Obligations.AdvanceSyncCountsModulo24 : Prop :=
  (∀ s : State, s.cfg.wf = true → ∃ t, exec .blAdvanceSync s = .next t ∧
    (blobRead t 21).toNat = ((blobRead s 21).toNat + 1) % 24 ∧
    (∀ a, a ≠ 21 → blobRead t a = blobRead s a) ∧ t = { s with blob := t.blob }) ∧
  (∀ (s : State) (k : Nat), s.cfg.wf = true → (blobRead s 21).toNat = 0 →
    ∃ t, execAll (List.replicate k .blAdvanceSync) s = .next t ∧ (blobRead t 21).toNat = k % 24)

/-- 42_live_state_blob.md R195, R196: `BL.RESET_SYNC` writes 0 to byte 21 and `BL.SET_PROGRAM` its operand
to byte 22; nothing else changes. R196 gives the operand as 0 to 127; that a byte of 128 or more is
written in the same way is the model's choice (log 26). -/
def Obligations.SyncResetAndProgram : Prop :=
  ∀ s : State,
    (∃ t, exec .blResetSync s = .next t ∧ blobRead t 21 = 0#8 ∧
      (∀ a, a ≠ 21 → blobRead t a = blobRead s a) ∧ t = { s with blob := t.blob }) ∧
    (∀ value : Byte, ∃ t, exec (.blSetProgram value) s = .next t ∧ blobRead t 22 = value ∧
      (∀ a, a ≠ 22 → blobRead t a = blobRead s a) ∧ t = { s with blob := t.blob })

/-- 42_live_state_blob.md R197: the 23 bytes in index order are returned; the blob is unchanged, or
all zero in a build with `SNAPSHOT_CLEARS`. Rests on the spec's decision D19 (log 19); where the
result goes is log 25. -/
def Obligations.SnapshotReturnsTheBlob : Prop :=
  ∀ s : State, s.cfg.wf = true → ∃ t bytes, exec .blSnapshot s = .next t ∧ t.ret = .bytes bytes ∧
    bytes.length = 23 ∧ (∀ a, a < 23 → bytes[a]? = some (blobRead s a)) ∧
    (∀ a, blobRead t a = if s.cfg.snapshotClears then 0#8 else blobRead s a) ∧
    t = { s with ret := t.ret, blob := t.blob }

/-- 10_state.md R32, 42_live_state_blob.md R197: a step changes the blob only where it drains a byte of the
receive buffer (that the byte's handler alone does it is `MdByteIsTotal`), or where GATE emits on a build
with `SNAPSHOT_CLEARS`, which leaves it all zero. Rests on the spec's decision D19 for the clearing build
(log 19); that one drained byte is a step and that the emission is a position of its own are the model's
choices (log 5, 6). -/
def Obligations.OnlyDecoderChangesBlob : Prop :=
  ∀ s t : State, step s = .next t → t.blob ≠ s.blob →
    (s.pc = .run .midiDrain ∧ ∃ b, s.midiRx = b :: t.midiRx) ∨
    (s.pc = .run .gateSend ∧ s.cfg.snapshotClears = true ∧ t.blob = [])

/-! ### Scanner -/

/-- 43_input_scanner.md R211, R212: the generation advances modulo 4, the raw vector replaces that
generation and no other; a key whose four generations agree takes their value as last-reported; one
frame for each key that changed, in ascending index, the index carried modulo 2^32. Rests on the
spec's decision D20 (log 20); the modulus is the model's choice (log 36). -/
def Obligations.KeyScanDebounces : Prop :=
  ∀ s : State, s.cfg.wf = true → s.keyGen.length = 4 → ∃ t, exec .scKeyscan s = .next t ∧
    t.keyGeneration = (s.keyGeneration + 1) % 4 ∧ t.keyGen.length = 4 ∧
    (∀ g, g < 4 → t.keyGen[g]? =
      if g = t.keyGeneration then
        some (s.pins.map (fun l => if l = s.cfg.keyPressedLevel then .pressed else .released))
      else s.keyGen[g]?) ∧
    t.keyLast.length = s.keyLast.length ∧
    (∀ (i : Nat) (last : Contact), s.keyLast[i]? = some last → t.keyLast[i]? = some
      (if ∀ g ∈ t.keyGen, g[i]? = some Contact.pressed then Contact.pressed
      else if ∀ g ∈ t.keyGen, g[i]? = some Contact.released then .released
      else last)) ∧
    t.out = s.out ++
      ((List.range s.keyLast.length).filter (fun i => t.keyLast[i]? ≠ s.keyLast[i]?)).map
        (fun i => ⟨"/key", [.int (BitVec.ofNat 32 i),
          .int (if t.keyLast[i]? = some .pressed then 100#32 else 0#32)]⟩) ∧
    t = { s with
      keyGeneration := t.keyGeneration, keyGen := t.keyGen, keyLast := t.keyLast, out := t.out }

/-- 43_input_scanner.md R213: four consecutive cycles that read pressed leave the key reported
pressed; and when any of the last four cycles read released, a key last reported released stays so.
Rests on the spec's decision D20 (log 20). -/
def Obligations.KeyPressNeedsFourCycles : Prop :=
  ∀ (s : State) (i : Nat) (p₁ p₂ p₃ p₄ : List Bool), s.cfg.wf = true →
    s.keyGen.length = 4 → i < s.keyLast.length →
    ((∀ p ∈ [p₁, p₂, p₃, p₄], p[i]? = some s.cfg.keyPressedLevel) →
      ∃ t, keyCycles [p₁, p₂, p₃, p₄] s = .next t ∧ t.keyLast[i]? = some .pressed) ∧
    ((∃ p ∈ [p₁, p₂, p₃, p₄], p[i]? = some (!s.cfg.keyPressedLevel)) →
      ∃ t u, keyCycles [p₁, p₂, p₃] s = .next t ∧ keyCycles [p₁, p₂, p₃, p₄] s = .next u ∧
        (t.keyLast[i]? = some .released → u.keyLast[i]? = some .released))

/-- 43_input_scanner.md R215: with the batch notice clear nothing happens; with it set it is
cleared, the knobs take the samples of their channels, and the foot switch is polled on its own
channel's sample. A channel outside the buffer, which no legal configuration names, stops by name.
Rests on the spec's decisions D21, D24, D35 (log 20, 21); the stop is the model's (log 27). -/
def Obligations.KnobLatchCopiesTheBatch : Prop :=
  ∀ s : State,
    (s.adcBatchComplete = false → exec .scKnobLatch s = .next s) ∧
    (s.adcBatchComplete = true → s.cfg.fsChannel < s.adcSample.length →
      (∀ c ∈ s.cfg.knobMap, c < s.adcSample.length) →
      ∃ v u t, s.adcSample[s.cfg.fsChannel]? = some v ∧
        u.knob.length = s.cfg.knobMap.length ∧
        (∀ k c : Nat, s.cfg.knobMap[k]? = some c → u.knob[k]? = s.adcSample[c]?) ∧
        u = { s with adcBatchComplete := false, knob := u.knob } ∧
        exec (.scFsPoll v) u = .next t ∧ exec .scKnobLatch s = .next t) ∧
    (s.adcBatchComplete = true →
      (s.adcSample.length ≤ s.cfg.fsChannel ∨ ∃ c ∈ s.cfg.knobMap, s.adcSample.length ≤ c) →
      exec .scKnobLatch s = .fault .absentChannel)

/-- 43_input_scanner.md R221, R222: the candidate with hysteresis, its write into the alternating
buffer on every poll, and an edge frame exactly when both slots agree on a new state. Rests on the
spec's decisions D22, D23 (log 20); for an operand of more than `W_SAMPLE` bits it is the model's choice
(log 37). -/
def Obligations.FootSwitchPoll : Prop :=
  ∀ (s : State) (v : Sample), s.cfg.wf = true → s.fsBuf.length = 2 → s.fsSlot < 2 →
    ∃ t, exec (.scFsPoll v) s = .next t ∧
    t.fsCandidate =
      (if v.toNat < s.cfg.fsLow then .pressed
      else if s.cfg.fsHigh < v.toNat then .released else s.fsCandidate) ∧
    t.fsBuf.length = 2 ∧
    (∀ k, k < 2 → t.fsBuf[k]? = if k = s.fsSlot then some t.fsCandidate else s.fsBuf[k]?) ∧
    t.fsSlot = 1 - s.fsSlot ∧
    t.fsLast = (if t.fsBuf[0]? = t.fsBuf[1]? then t.fsCandidate else s.fsLast) ∧
    t.out = s.out ++
      (if t.fsLast = s.fsLast then []
      else [⟨"/fs", [.int (if t.fsLast = .pressed then 1#32 else 0#32)]⟩]) ∧
    t = { s with
      fsCandidate := t.fsCandidate, fsBuf := t.fsBuf, fsSlot := t.fsSlot, fsLast := t.fsLast,
      out := t.out }

/-- 43_input_scanner.md R223: an input that alternates below the low and above the high threshold at every
poll reports nothing, however long, whichever contact it starts with and whatever the slots hold, but
where its first poll agrees with the poll before it on a state not yet reported: that agreement is
reported at once, one frame, and then nothing. A sustained low value of two polls or more reports exactly
one press. Rests on R223's derived sentences and the spec's decisions D22, D23 (log 20); for operands of
more than `W_SAMPLE` bits it is the model's choice (log 37). -/
def Obligations.FootSwitchDebounces : Prop :=
  ∀ (s : State) (l : List Sample), s.cfg.wf = true → s.fsBuf.length = 2 → s.fsSlot < 2 →
    (∀ first second : Contact, first ≠ second →
      (∀ (i : Nat) (v : Sample), l[i]? = some v →
        if (if i % 2 = 0 then first else second) = .pressed then v.toNat < s.cfg.fsLow
        else s.cfg.fsHigh < v.toNat) →
      ∃ t, execAll (l.map .scFsPoll) s = .next t ∧
        (s.fsBuf[1 - s.fsSlot]? ≠ some first ∨ s.fsLast = first →
          t.out = s.out ∧ t.fsLast = s.fsLast) ∧
        (s.fsBuf[1 - s.fsSlot]? = some first → s.fsLast ≠ first → l ≠ [] →
          t.out = s.out ++ [⟨"/fs", [.int (if first = .pressed then 1#32 else 0#32)]⟩] ∧
          t.fsLast = first)) ∧
    ((∀ v ∈ l, v.toNat < s.cfg.fsLow) → 2 ≤ l.length → s.fsLast = .released →
      ∃ t, execAll (l.map .scFsPoll) s = .next t ∧
        t.out = s.out ++ [⟨"/fs", [.int 1#32]⟩] ∧ t.fsLast = .pressed)

/-- 43_input_scanner.md R210, 45_scheduler.md R267: the cycle is the key scan, then the knob latch;
the SCAN step is the cycle and then the position GATE; both complete in every state whose
configuration and buffers have the sizes the spec gives them. Rests on the spec's decision D21 (log
20). -/
def Obligations.ScanCycleIsKeysThenKnobs : Prop :=
  ∀ s : State,
    (∃ u, exec .scKeyscan s = .next u ∧ exec .scCycle s = exec .scKnobLatch u) ∧
    (s.cfg.wf = true → s.adcSample.length = s.cfg.nAdc →
      ∃ t, exec .scCycle s = .next t ∧ exec .schScan s = .next { t with pc := .run .gate })

/-! ### Commands -/

/-- 44_command_strobes.md R242, 30_encoding.md R104: the colour is the low three bits of the
argument, bit 0 blue, bit 1 green, bit 2 red; arguments that agree modulo 8 behave alike. Rests on
the spec's decision D25 (log 22). -/
def Obligations.LedColour : Prop :=
  ∀ (s : State) (v : Word),
    exec (.cmdLed v) s = .next { s with rgb :=
      ⟨v.toNat / 4 % 2 = 1, v.toNat / 2 % 2 = 1, v.toNat % 2 = 1⟩ } ∧
    ∀ w : Word, v.toNat % 8 = w.toNat % 8 → exec (.cmdLed w) s = exec (.cmdLed v) s

/-- 44_command_strobes.md R241, R244, R245, R246, 45_scheduler.md R275: CMD.READY enters `Run` at
MIDI_DRAIN; CMD.NF resets the stopwatch and sets the pending flag; CMD.GETKNOBS sends the knobs as last
latched, each zero-extended, and changes nothing else; CMD.UNMATCHED changes nothing. Rests on the
spec's decisions D26 for `/ready` (log 22), D32 for `/nf` (log 23) and D24 for the width of a knob
argument (log 21). -/
def Obligations.PlainCommands : Prop :=
  ∀ s : State,
    exec .cmdReady s = .next { s with pc := .run .midiDrain } ∧
    exec .cmdNf s = .next { s with stopwatch := 0, snapshotPending := true } ∧
    exec .cmdGetknobs s = .next { s with
      out := s.out ++ [⟨"/knobs", s.knob.map (fun v => .int (BitVec.ofNat 32 v.toNat))⟩] } ∧
    exec .cmdUnmatched s = .next s

/-- 44_command_strobes.md R243, 45_scheduler.md R272, 93_implementation_defined.md U15: the shutdown
command and routine halt with reason Shutdown and send nothing; the indicator is left at any value,
a display is cleared first. Rests on the spec's decision D27; the free values and the display are
the model's (log 12, 14, 29). -/
def Obligations.ShutdownHalts : Prop :=
  ∀ (s : State) (i : Instr), i = .cmdShutdown ∨ i = .schShutdown →
    ∃ t, exec i s = .next t ∧ t.pc = .halted ∧ t.haltReason = .shutdown ∧
      (s.cfg.hasDisplay = true → ∃ l, t.display = s.display ++ .clear :: l) ∧
      (s.cfg.hasDisplay = false → t.display = s.display) ∧
      t = { s with
        pc := t.pc, haltReason := t.haltReason, rgb := t.rgb, display := t.display,
        freeCount := t.freeCount }

/-! ### Scheduler -/

/-- 41_midi_decoder.md R140, 45_scheduler.md R273: `MD.INIT` writes the filter and puts the decoder
in `Idle`; start-up arms the Timebase, initialises the decoder and enters Boot-Wait, or halts with
InitFailure. Rests on the spec's decisions D28, D29, D40 (log 8). -/
def Obligations.StartUp : Prop :=
  ∀ s : State,
    (∀ f : Byte, exec (.mdInit f) s = .next { s with
      channelFilter := f, mode := .normal, pendingEvent := none, bytesNeeded := 0,
      bytesReceived := 0, lastDataByte := 0 }) ∧
    exec (.schInit true) s = .next { s with
      tbArmed := true, channelFilter := s.cfg.channelFilterInit, mode := .normal,
      pendingEvent := none, bytesNeeded := 0, bytesReceived := 0, lastDataByte := 0,
      pc := .bootWait .framePoll } ∧
    exec (.schInit false) s = .next { s with pc := .halted, haltReason := .initFailure }

/-- 45_scheduler.md R261, R262: a Boot-Wait iteration removes at most one frame; `/ready` enters
`Run` and ends it; otherwise, when the stopwatch exceeds the stall threshold, it is reset and the
capped indicator advances and is drawn. Rests on the spec's decisions D6, D33 (log 23); that the draw is
kept as a call, made only by a build that has a display, is log 14. -/
def Obligations.BootIteration : Prop :=
  ∀ s : State,
    (∀ f rest, s.cmdRx = f :: rest → f.address = "/ready" →
      exec .schBootIter s = .next { s with cmdRx := rest, pc := .run .midiDrain }) ∧
    ((∀ f ∈ s.cmdRx.head?, f.address ≠ "/ready") →
      ∃ t, exec .schBootIter s = .next t ∧ t.pc = .bootWait .framePoll ∧
        t.cmdRx = s.cmdRx.tail ∧
        (s.cfg.bootStallThreshold < s.stopwatch →
          t.stopwatch = 0 ∧ t.bootProgress = min (s.bootProgress + 1) s.cfg.bootProgressMax ∧
          t.display = s.display ++
            (if s.cfg.hasDisplay then [.drawProgress t.bootProgress] else [])) ∧
        (s.stopwatch ≤ s.cfg.bootStallThreshold →
          t.stopwatch = s.stopwatch ∧ t.bootProgress = s.bootProgress ∧ t.display = s.display) ∧
        t = { s with
          pc := t.pc, cmdRx := t.cmdRx, stopwatch := t.stopwatch,
          bootProgress := t.bootProgress, display := t.display })

/-- 45_scheduler.md R266, 44_command_strobes.md R240: CMD_POLL removes at most one frame and executes
exactly the command it selects; the shutdown command ends the iteration. -/
def Obligations.CmdPollRoutesOneFrame : Prop :=
  ∀ s : State,
    (s.cmdRx = [] → exec .schCmdPoll s = .next { s with pc := .run .scan }) ∧
    (∀ f rest, s.cmdRx = f :: rest →
      ∃ u, exec (runCommand s.cfg.routes f).instr
          { s with cmdRx := rest, pc := .run .cmdPoll } = .next u ∧
        exec .schCmdPoll s = .next (if u.pc = .halted then u else { u with pc := .run .scan }))

/-- 45_scheduler.md R265: the drain decodes every byte of the buffer in order and ends with the
buffer empty, at CMD_POLL. That no other agent moves in between is the grain of `exec` (log 6). -/
def Obligations.MidiDrainDecodesAll : Prop :=
  ∀ s : State, ∃ t, exec .schMidiDrain s = .next t ∧ t.midiRx = [] ∧ t.pc = .run .cmdPoll ∧
    execAll (s.midiRx.map .mdByte) { s with midiRx := [] } = .next { t with pc := s.pc }

/-- 45_scheduler.md R270: with a snapshot pending and the stopwatch above the threshold the pair
`/mblob`, `/knobs` is sent and the flag cleared; otherwise nothing is sent and the flag stays. Rests
on the spec's decisions D6, D19, D31, D32 (log 19, 23). -/
def Obligations.GateSendsThePair : Prop :=
  ∀ s : State, s.cfg.wf = true →
    (s.snapshotPending = true → s.cfg.gateThreshold < s.stopwatch →
      exec .schGate s = .next { s with
        out := s.out ++
          [⟨"/mblob", [.blob ((List.range 23).map (blobRead s))]⟩,
           ⟨"/knobs", s.knob.map (fun v => .int (BitVec.ofNat 32 v.toNat))⟩],
        blob := if s.cfg.snapshotClears then [] else s.blob,
        snapshotPending := false, pc := .run .midiDrain }) ∧
    ((s.snapshotPending = false ∨ s.stopwatch ≤ s.cfg.gateThreshold) →
      exec .schGate s = .next { s with pc := .run .midiDrain })

/-- 45_scheduler.md R264: a Run iteration completes in every state whose configuration and buffers
have the sizes the spec gives them, and is MIDI_DRAIN, CMD_POLL, then, unless halted, SCAN and GATE.
That no other agent moves in between is the grain of `exec` (log 6). -/
def Obligations.RunIterationIsItsFourSteps : Prop :=
  ∀ s : State, s.cfg.wf = true → s.adcSample.length = s.cfg.nAdc →
    ∃ t, exec .schRunIter s = .next t ∧
      ∃ u, execAll [.schMidiDrain, .schCmdPoll] s = .next u ∧
        (u.pc = .halted → t = u) ∧
        (u.pc ≠ .halted → execAll [.schScan, .schGate] u = .next t ∧ t.pc = .run .midiDrain)

/-- 45_scheduler.md R264, R265: with no other agent moving in between, the steps of one Run iteration
have together exactly the effect of `SCH.RUN_ITER`: one for each buffered byte and five more, and a sixth
where CMD_POLL finds a notice at the head of its queue or the test of GATE already holds. Never a seventh:
a notice resets the stopwatch, so GATE does not send in the iteration that takes it. The grain of `step`
is the model's (log 5, 6, 7). -/
def Obligations.RunIterationIsStepByStep : Prop :=
  ∀ s : State, s.cfg.status.wf = true → s.sched = [] → s.sleeping = false →
    s.pc = .run .midiDrain →
    ((∃ f rest, s.cmdRx = f :: rest ∧ runCommand s.cfg.routes f = .nf) ∨
        (s.snapshotPending = true ∧ s.cfg.gateThreshold < s.stopwatch) →
      runSteps (s.midiRx.length + 6) s = exec .schRunIter s) ∧
    ((∀ f rest, s.cmdRx = f :: rest → runCommand s.cfg.routes f ≠ .nf) →
      (s.snapshotPending = false ∨ s.stopwatch ≤ s.cfg.gateThreshold) →
      runSteps (s.midiRx.length + 5) s = exec .schRunIter s)

/-- 45_scheduler.md R261, R262: with no other agent moving in between, the steps from FRAME_POLL have
together exactly the effect of `SCH.BOOT_ITER`: one step where `/ready` is removed, otherwise four where
the stopwatch exceeds the stall threshold and two where it does not. The grain of `step` is the model's
(log 5, 6). -/
def Obligations.BootIterationIsStepByStep : Prop :=
  ∀ s : State, s.sched = [] → s.sleeping = false → s.pc = .bootWait .framePoll →
    (∀ f rest, s.cmdRx = f :: rest → f.address = "/ready" →
      runSteps 1 s = exec .schBootIter s) ∧
    ((∀ f ∈ s.cmdRx.head?, f.address ≠ "/ready") →
      (s.cfg.bootStallThreshold < s.stopwatch → runSteps 4 s = exec .schBootIter s) ∧
      (s.stopwatch ≤ s.cfg.bootStallThreshold → runSteps 2 s = exec .schBootIter s))

/-! ### Rules of the whole machine -/

/-- 45_scheduler.md R271: an `/mblob` frame is sent only by the emission of GATE, one at a time, each
followed by its `/knobs` frame, and the flag is then clear; GATE comes to its emission only with a
snapshot pending and the stopwatch above the threshold; while a tick or an input falls before the
emission, the flag stays. So where GATE emits only with a snapshot pending, which every step keeps, the
flag was set where a pair is sent. Rests on R271's derived sentences; the position between the read and
the emission is the model's (log 6). -/
def Obligations.NoUnsolicitedSnapshot : Prop :=
  ∀ s t : State, step s = .next t →
    (SendingIsPending s → SendingIsPending t ∧
      (countFrames "/mblob" t.out ≠ countFrames "/mblob" s.out → s.snapshotPending = true)) ∧
    (countFrames "/mblob" t.out ≠ countFrames "/mblob" s.out →
      s.pc = .run .gateSend ∧ countFrames "/mblob" t.out = countFrames "/mblob" s.out + 1 ∧
      (∃ bytes knobs, t.out = s.out ++ [⟨"/mblob", bytes⟩, ⟨"/knobs", knobs⟩]) ∧
      t.snapshotPending = false) ∧
    (t.pc = .run .gateSend → s.pc ≠ .run .gateSend →
      s.pc = .run .gate ∧ s.snapshotPending = true ∧ s.cfg.gateThreshold < s.stopwatch ∧
      t.snapshotPending = true) ∧
    (t.pc = .run .gateSend → s.pc = .run .gateSend → t.snapshotPending = s.snapshotPending)

/-- 45_scheduler.md R271: "the number of pairs sent never exceeds the number of `/nf` received":
every step keeps the number of pairs sent, plus one taken and not yet answered, plus the notices still
queued, from growing, but for a notice that arrives. It holds where GATE emits only with a snapshot
pending, which every step keeps. Rests on R271's derived sentences; the schedule and the positions
inside CMD_POLL and GATE are log 5, 6. -/
def Obligations.SnapshotsNeverExceedNotices : Prop :=
  ∀ s t : State, SendingIsPending s → step s = .next t →
    SendingIsPending t ∧
    countFrames "/mblob" t.out + pendingCount t + countFrames "/nf" t.cmdRx ≤
      countFrames "/mblob" s.out + pendingCount s + countFrames "/nf" s.cmdRx +
        (match s.sched with
        | .framePush f :: _ => if f.address = "/nf" then 1 else 0
        | _ => 0)

/-- 45_scheduler.md R260: the only changes of phase are Init to BootWait or Halted, BootWait to Run,
and Run to Halted. Rests on the spec's decisions D27, D28. -/
def Obligations.PhasesOnlyAdvance : Prop :=
  ∀ s t : State, step s = .next t → t.phase = s.phase ∨
    (s.phase = .init ∧ t.phase = .bootWait) ∨ (s.phase = .init ∧ t.phase = .halted) ∨
    (s.phase = .bootWait ∧ t.phase = .run) ∨ (s.phase = .run ∧ t.phase = .halted)

/-- 45_scheduler.md R272, 70_reset_and_hazards.md R348: in `Halted` a turn of the foreground changes
nothing, and every step, ticks and inputs included, leaves every piece of state but the counters and the
input ports as it is: the halt, its reason, the outputs, the decoder, the blob, the scanner ("nothing is
scanned"); it removes nothing from either queue, but that a push onto a full receive buffer leaves any
content. That a turn in `Halted` is a step that changes nothing is the model's choice (log 7), as are
the overflow (log 13), the schedule (log 5) and the poll of a sleep that no run leaves open (log 24). -/
def Obligations.HaltedIsFinal : Prop :=
  ∀ s : State, s.pc = .halted →
    (∀ t, ForegroundTurn s t → s.sleeping = false → step s = .next t) ∧
    (∀ t, step s = .next t →
      t = { s with
        ticks := t.ticks, countdown := t.countdown, stopwatch := t.stopwatch
        sleeping := t.sleeping, midiRx := t.midiRx, cmdRx := t.cmdRx, pins := t.pins
        adcSample := t.adcSample, adcBatchComplete := t.adcBatchComplete
        freeCount := t.freeCount, sched := t.sched } ∧
      (∃ l, t.cmdRx = s.cmdRx ++ l) ∧
      ((∀ b m, s.sched = .midiPush b :: m → s.midiRx.length < s.cfg.rxCap) →
        ∃ l, t.midiRx = s.midiRx ++ l))

/-- 45_scheduler.md R263, 70_reset_and_hazards.md R348: in Boot-Wait no byte is decoded, nothing is
scanned, nothing is sent, no command is routed and the indicator is not written: a step changes at most
the position, the counters, the boot progress and the display that shows it, and the input ports; and it
removes no byte from the receive buffer, but that a push onto a full one leaves any content. Rests on
R263's derived sentence; the display is log 14, the overflow log 13, the schedule log 5. -/
def Obligations.BootWaitOnlyWaits : Prop :=
  ∀ s t : State, step s = .next t → s.phase = .bootWait →
    t = { s with
      pc := t.pc, ticks := t.ticks, countdown := t.countdown, stopwatch := t.stopwatch
      sleeping := t.sleeping, bootProgress := t.bootProgress, display := t.display
      midiRx := t.midiRx, cmdRx := t.cmdRx, pins := t.pins, adcSample := t.adcSample
      adcBatchComplete := t.adcBatchComplete, freeCount := t.freeCount, sched := t.sched } ∧
    ((∀ b m, s.sched = .midiPush b :: m → s.midiRx.length < s.cfg.rxCap) →
      ∃ l, t.midiRx = s.midiRx ++ l)

/-- 20_memory.md R66, 10_state.md R48, 41_midi_decoder.md R142, R147: `out` is append-only; so are the
passthrough sink, which receives forwarded bytes and hook calls (R142), and the event record, the
decoder's output (R147): that each is kept as one growing sequence is the model's choice (log 15). -/
def Obligations.OutputsOnlyGrow : Prop :=
  ∀ s t : State, step s = .next t →
    (∃ l, t.out = s.out ++ l) ∧ (∃ l, t.passthroughSink = s.passthroughSink ++ l) ∧
    (∃ l, t.fired = s.fired ++ l)

/-- 10_state.md R51, R28, R27: no step changes the configuration; the channel filter is written by
start-up alone; the two send-side fields are never written. Rests on the spec's decisions D37, D38
(log 9, 11). -/
def Obligations.ConstantsStay : Prop :=
  ∀ s t : State, step s = .next t →
    t.cfg = s.cfg ∧ (s.phase ≠ .init → t.channelFilter = s.channelFilter) ∧
    t.lastStatusSent = s.lastStatusSent ∧ t.sendFullCommands = s.sendFullCommands

/-- 10_state.md R20, R21, R22, R23, R26, R34, R39, R41, R43, R46, 42_live_state_blob.md R199: every step
from a state that meets the invariant gives one that meets it. Rests on the derived invariants of R26,
R199 and the decisions behind the fields; the positions inside a step are log 6. -/
def Obligations.StepKeepsInvariant : Prop :=
  ∀ s t : State, Inv s → step s = .next t → Inv t

/-- The invariant holds after reset, of a device with unknown legal parameters, and of every device with
a legal configuration.  (10_state.md R50; the values the spec leaves open are the model's, log 9, 10.) -/
def Obligations.ResetMeetsInvariant : Prop :=
  Inv State.reset ∧ ∀ c : Config, c.wf = true → Inv (State.resetOf c)

/-- 00_scope.md R12, 60_exceptions.md R305: "no operation of the block traps": in a state that meets
the invariant, with inputs the ports can carry, the step gives a next state. Which inputs are
possible is log 27. -/
def Obligations.StepNeverTraps : Prop :=
  ∀ s : State, Inv s → s.inputsPossible → ∃ t, step s = .next t

/-- 10_state.md R50: what the table gives every piece of state after reset, read on a device of any
configuration. Rests on the spec's decisions D28, D29, D33 (log 8). -/
def Obligations.ResetValues : Prop :=
  ∀ c : Config,
    let s := State.resetOf c
    s.ticks = 0 ∧ s.countdown = 0 ∧ s.stopwatch = 0 ∧ s.tbArmed = false ∧ s.mode = .normal ∧
    s.pendingEvent = none ∧ s.bytesNeeded = 0 ∧ s.bytesReceived = 0 ∧ s.lastDataByte = 0 ∧
    s.channelFilter = c.channelFilterInit ∧ (∀ a, blobRead s a = 0#8) ∧
    s.keyGen.length = c.keyGenerations ∧
    (∀ g ∈ s.keyGen, ∀ i, i < c.nKeys → g[i]? = some .released) ∧
    (∀ i, i < c.nKeys → s.keyLast[i]? = some .released) ∧ s.keyGeneration = 0 ∧
    (∀ k, k < c.nKnobs → s.knob[k]? = some 0) ∧ s.fsCandidate = .released ∧
    (∀ k, k < c.fsSlots → s.fsBuf[k]? = some .released) ∧ s.fsLast = .released ∧ s.fsSlot = 0 ∧
    s.phase = .init ∧
    s.haltReason = .none ∧ s.snapshotPending = false ∧ s.bootProgress = 0 ∧ s.midiRx = [] ∧
    s.cmdRx = [] ∧ s.out = [] ∧ s.adcBatchComplete = false ∧ State.reset = State.resetOf Config.device
end

