-- ==== Sys2Proof/Laws/Config.lean ====
section
/-! SUPPORT. What `Config.wf` says of each parameter, one lemma each. -/

namespace Sys2Proof

/-- The constraints of a legal configuration, all at once; the lemmas below name them. -/
theorem Config.wf_parts {c : Config} (h : c.wf = true) :
    c.fixedValues = true ∧ c.widthsLegal = true ∧ c.status.wf = true ∧ c.keysLegal = true ∧
      c.analogLegal = true ∧ c.slotsLegal = true ∧ 1 ≤ c.rxCap := by
  simpa [Config.wf, and_assoc] using h

theorem Config.fixed {c : Config} (h : c.wf = true) :
    c.keyGenerations = 4 ∧ c.keyPressedValue = 100#32 ∧ c.keyReleasedValue = 0#32 ∧ c.nKnobs = 6 ∧
      c.fsSlots = 2 ∧ c.syncModulus = 24 ∧ c.blobSize = 23 := by
  simpa [Config.fixedValues, and_assoc] using (Config.wf_parts h).1

theorem Config.wf_status {c : Config} (h : c.wf = true) : c.status.wf = true := (Config.wf_parts h).2.2.1

theorem Config.wf_keyGenerations {c : Config} (h : c.wf = true) : c.keyGenerations = 4 :=
  (Config.fixed h).1

theorem Config.wf_keyPressedValue {c : Config} (h : c.wf = true) : c.keyPressedValue = 100#32 :=
  (Config.fixed h).2.1

theorem Config.wf_keyReleasedValue {c : Config} (h : c.wf = true) : c.keyReleasedValue = 0#32 :=
  (Config.fixed h).2.2.1

theorem Config.wf_nKnobs {c : Config} (h : c.wf = true) : c.nKnobs = 6 := (Config.fixed h).2.2.2.1

theorem Config.wf_fsSlots {c : Config} (h : c.wf = true) : c.fsSlots = 2 := (Config.fixed h).2.2.2.2.1

theorem Config.wf_syncModulus {c : Config} (h : c.wf = true) : c.syncModulus = 24 :=
  (Config.fixed h).2.2.2.2.2.1

theorem Config.wf_blobSize {c : Config} (h : c.wf = true) : c.blobSize = 23 :=
  (Config.fixed h).2.2.2.2.2.2

/-- The analog constraints (D24, R8). -/
theorem Config.wf_analog {c : Config} (h : c.wf = true) :
    c.nKnobs ≤ c.nAdc ∧ c.knobMap.length = c.nKnobs ∧ (∀ k ∈ c.knobMap, k < c.nAdc) ∧
      c.knobMap.Nodup ∧ c.knobMap ≠ List.range c.nKnobs ∧ c.fsChannel < c.nAdc ∧ 1 ≤ c.wSample ∧
      c.wSample ≤ 31 ∧ c.fsLow ≤ c.fsHigh := by
  simpa only [Config.analogLegal, Bool.and_eq_true, decide_eq_true_eq, List.all_eq_true, and_assoc]
    using (Config.wf_parts h).2.2.2.2.1

/-- The whitelist's constraints (D18). -/
theorem Config.wf_slots {c : Config} (h : c.wf = true) :
    (∀ n ∈ c.ccSlot.toList, n.toNat < 128) ∧ c.ccSlot.toList.Nodup := by
  simpa only [Config.slotsLegal, Bool.and_eq_true, decide_eq_true_eq, List.all_eq_true]
    using (Config.wf_parts h).2.2.2.2.2.1

theorem Config.wf_rxCap {c : Config} (h : c.wf = true) : 1 ≤ c.rxCap := (Config.wf_parts h).2.2.2.2.2.2

/-- The illustrative device is legal. -/
theorem Config.illustrative_wf : Config.illustrative.wf = true := by decide

/-- The unknown parameters are legal, whatever they are. -/
theorem Config.legal_wf : Config.legal.wf = true := by
  unfold Config.legal
  split
  · assumption
  · exact Config.illustrative_wf

/-- The device of `State.reset` is legal. -/
theorem Config.device_wf : Config.device.wf = true := by
  have h := Config.legal_wf
  have hp := Config.wf_parts h
  have ha := Config.wf_analog h
  rw [Config.wf_nKnobs h] at ha
  have hk : Config.device.keysLegal = true := hp.2.2.2.1
  have hs : Config.device.slotsLegal = true := hp.2.2.2.2.2.1
  have hr : 1 ≤ Config.device.rxCap := hp.2.2.2.2.2.2
  have hg : Config.device.analogLegal = true := by
    simp only [Config.analogLegal, Bool.and_eq_true, decide_eq_true_eq, List.all_eq_true, and_assoc]
    exact ha
  have hf : Config.device.fixedValues = true := rfl
  have hw : Config.device.widthsLegal = true := rfl
  have hm : Config.device.status.wf = true := by
    show StatusMap.midi.wf = true
    decide
  simp [Config.wf, hk, hs, hr, hg, hf, hw, hm]

end Sys2Proof
end

