-- ==== Sys2Proof/Laws/Memory.lean ====
section
/-! SUPPORT. Laws of the blob's cells: read after write, and the canonical form is kept. -/

namespace Sys2Proof.Machine

theorem Memory.read_remove (a x : Nat) (m : Memory) :
    Memory.read (Memory.remove a m) x = if x = a then 0#8 else Memory.read m x := by
  induction m with
  | nil => simp [Memory.remove, Memory.read]
  | cons c rest ih =>
    obtain ⟨b, w⟩ := c
    by_cases hb : b = a
    · subst hb
      simp only [Memory.remove, if_true, ih, Memory.read]
      split <;> simp_all
    · simp only [Memory.remove, hb, if_false, Memory.read, ih]
      by_cases hx : x = b
      · subst hx; simp [hb]
      · simp [hx]

theorem Memory.read_insert (a : Nat) (v : Byte) (x : Nat) (m : Memory)
    (h : ∀ c ∈ m, c.1 ≠ a) :
    Memory.read (Memory.insert a v m) x = if x = a then v else Memory.read m x := by
  induction m with
  | nil => simp [Memory.insert, Memory.read]
  | cons c rest ih =>
    obtain ⟨b, w⟩ := c
    have hb : b ≠ a := h (b, w) (by simp)
    have hr := ih (fun c hc => h c (by simp [hc]))
    unfold Memory.insert
    split
    · simp [Memory.read]
    · simp only [Memory.read, hr]
      by_cases hx : x = b
      · subst hx; simp [hb]
      · simp [hx]

theorem Memory.remove_ne (a : Nat) (m : Memory) : ∀ c ∈ Memory.remove a m, c.1 ≠ a := by
  induction m with
  | nil => simp [Memory.remove]
  | cons c rest ih =>
    obtain ⟨b, w⟩ := c
    unfold Memory.remove
    split
    · exact ih
    · intro c hc
      rcases List.mem_cons.mp hc with rfl | hc
      · assumption
      · exact ih c hc

/-- Reading after a write: the written byte at its address, the old byte elsewhere. -/
@[simp] theorem Memory.read_write (m : Memory) (a : Nat) (v : Byte) (x : Nat) :
    Memory.read (Memory.write m a v) x = if x = a then v else Memory.read m x := by
  unfold Memory.write
  split
  · next h => rw [Memory.read_remove, h]
  · rw [Memory.read_insert _ _ _ _ (Memory.remove_ne a m), Memory.read_remove]
    split <;> simp_all

theorem Memory.read_write_same (m : Memory) (a : Nat) (v : Byte) :
    Memory.read (Memory.write m a v) a = v := by simp

theorem Memory.read_write_other (m : Memory) {a x : Nat} (v : Byte) (h : x ≠ a) :
    Memory.read (Memory.write m a v) x = Memory.read m x := by simp [h]

theorem Memory.wfFrom_mono {lo lo' : Nat} (h : lo' ≤ lo) {m : Memory}
    (hm : Memory.wfFrom lo m = true) : Memory.wfFrom lo' m = true := by
  cases m with
  | nil => rfl
  | cons c rest =>
    obtain ⟨b, w⟩ := c
    simp only [Memory.wfFrom, Bool.and_eq_true, decide_eq_true_eq] at hm ⊢
    exact ⟨⟨by omega, hm.1.2⟩, hm.2⟩

theorem Memory.wfFrom_remove (a lo : Nat) (m : Memory) (hm : Memory.wfFrom lo m = true) :
    Memory.wfFrom lo (Memory.remove a m) = true := by
  induction m generalizing lo with
  | nil => rfl
  | cons c rest ih =>
    obtain ⟨b, w⟩ := c
    simp only [Memory.wfFrom, Bool.and_eq_true, decide_eq_true_eq] at hm
    unfold Memory.remove
    split
    · exact Memory.wfFrom_mono (by omega) (ih (b + 1) hm.2)
    · simp only [Memory.wfFrom, Bool.and_eq_true, decide_eq_true_eq]
      exact ⟨hm.1, ih (b + 1) hm.2⟩

theorem Memory.wfFrom_insert (a : Nat) (v : Byte) (lo : Nat) (m : Memory)
    (hm : Memory.wfFrom lo m = true) (hlo : lo ≤ a) (hv : v ≠ 0#8)
    (hne : ∀ c ∈ m, c.1 ≠ a) : Memory.wfFrom lo (Memory.insert a v m) = true := by
  induction m generalizing lo with
  | nil => simp [Memory.insert, Memory.wfFrom, hlo, hv]
  | cons c rest ih =>
    obtain ⟨b, w⟩ := c
    have hb : b ≠ a := hne (b, w) (by simp)
    simp only [Memory.wfFrom, Bool.and_eq_true, decide_eq_true_eq] at hm
    unfold Memory.insert
    split
    · simp only [Memory.wfFrom, Bool.and_eq_true, decide_eq_true_eq]
      exact ⟨⟨hlo, hv⟩, ⟨by omega, hm.1.2⟩, hm.2⟩
    · simp only [Memory.wfFrom, Bool.and_eq_true, decide_eq_true_eq]
      exact ⟨hm.1, ih (b + 1) hm.2 (by omega) (fun c hc => hne c (by simp [hc]))⟩

/-- A write keeps the canonical form. -/
theorem Memory.wf_write {m : Memory} (hm : Memory.wf m = true) (a : Nat) (v : Byte) :
    Memory.wf (Memory.write m a v) = true := by
  unfold Memory.write
  split
  · exact Memory.wfFrom_remove a 0 m hm
  · next hv =>
    exact Memory.wfFrom_insert a v 0 _ (Memory.wfFrom_remove a 0 m hm) (by omega) hv
      (Memory.remove_ne a m)

theorem Memory.mem_remove {a : Nat} {c : Host.Cell} {m : Memory} (h : c ∈ Memory.remove a m) :
    c ∈ m := by
  induction m with
  | nil => simp [Memory.remove] at h
  | cons d rest ih =>
    obtain ⟨b, w⟩ := d
    unfold Memory.remove at h
    split at h
    · exact List.mem_cons_of_mem _ (ih h)
    · rcases List.mem_cons.mp h with rfl | h
      · exact List.mem_cons_self
      · exact List.mem_cons_of_mem _ (ih h)

theorem Memory.mem_insert {a : Nat} {v : Byte} {c : Host.Cell} {m : Memory}
    (h : c ∈ Memory.insert a v m) : c = (a, v) ∨ c ∈ m := by
  induction m with
  | nil => simpa [Memory.insert] using h
  | cons d rest ih =>
    obtain ⟨b, w⟩ := d
    unfold Memory.insert at h
    split at h
    · simpa using h
    · rcases List.mem_cons.mp h with rfl | h
      · exact .inr List.mem_cons_self
      · rcases ih h with h | h
        · exact .inl h
        · exact .inr (List.mem_cons_of_mem _ h)

/-- A write to one of the first `size` addresses lists no other. -/
theorem Memory.within_write {size : Nat} {m : Memory} (hm : Memory.within size m = true) {a : Nat}
    (ha : a < size) (v : Byte) : Memory.within size (Memory.write m a v) = true := by
  simp only [Memory.within, List.all_eq_true, decide_eq_true_eq] at hm ⊢
  intro c hc
  unfold Memory.write at hc
  split at hc
  · exact hm c (Memory.mem_remove hc)
  · rcases Memory.mem_insert hc with rfl | hc
    · exact ha
    · exact hm c (Memory.mem_remove hc)

/-- The zeroed blob is in canonical form. -/
theorem Memory.wf_nil : Memory.wf [] = true := rfl

/-- The zeroed blob lists no address. -/
theorem Memory.within_nil (size : Nat) : Memory.within size [] = true := rfl

theorem Memory.read_nil (a : Nat) : Memory.read [] a = 0#8 := rfl

/-- A cell of canonical memory is listed at or above the lower bound. -/
theorem Memory.read_below {lo : Nat} {m : Memory} (hm : Memory.wfFrom lo m = true) {a : Nat}
    (ha : a < lo) : Memory.read m a = 0#8 := by
  induction m generalizing lo with
  | nil => rfl
  | cons c rest ih =>
    obtain ⟨b, w⟩ := c
    simp only [Memory.wfFrom, Bool.and_eq_true, decide_eq_true_eq] at hm
    have hab : a ≠ b := by omega
    simp only [Memory.read, hab, if_false]
    exact ih hm.2 (by omega)

/-- Past the listed addresses memory reads as an unlisted one. -/
theorem Memory.read_outside {size : Nat} {m : Memory} (hm : Memory.within size m = true) {a : Nat}
    (ha : size ≤ a) : Memory.read m a = 0#8 := by
  induction m with
  | nil => rfl
  | cons c rest ih =>
    obtain ⟨b, w⟩ := c
    simp only [Memory.within, List.all_cons, Bool.and_eq_true, decide_eq_true_eq] at hm
    have hab : a ≠ b := by omega
    simp only [Memory.read, hab, if_false]
    exact ih hm.2

/-- Equal memories are equal data: canonical memories that read alike are the same list. -/
theorem Memory.ext_of_wfFrom {lo : Nat} {m n : Memory} (hm : Memory.wfFrom lo m = true)
    (hn : Memory.wfFrom lo n = true) (h : ∀ a, Memory.read m a = Memory.read n a) : m = n := by
  induction m generalizing lo n with
  | nil =>
    cases n with
    | nil => rfl
    | cons c rest =>
      obtain ⟨b, w⟩ := c
      simp only [Memory.wfFrom, Bool.and_eq_true, decide_eq_true_eq] at hn
      exact absurd (by simpa [Memory.read] using (h b).symm) hn.1.2
  | cons c rest ih =>
    obtain ⟨b, w⟩ := c
    cases n with
    | nil =>
      simp only [Memory.wfFrom, Bool.and_eq_true, decide_eq_true_eq] at hm
      exact absurd (by simpa [Memory.read] using h b) hm.1.2
    | cons d rest' =>
      obtain ⟨b', w'⟩ := d
      simp only [Memory.wfFrom, Bool.and_eq_true, decide_eq_true_eq] at hm hn
      have hb : b = b' := by
        rcases Nat.lt_trichotomy b b' with hlt | heq | hgt
        · have h1 := h b
          have hne : b ≠ b' := by omega
          simp only [Memory.read, if_true, hne, if_false] at h1
          rw [Memory.read_below hn.2 (by omega)] at h1
          exact absurd h1 hm.1.2
        · exact heq
        · have h1 := h b'
          have hne : b' ≠ b := by omega
          simp only [Memory.read, if_true, hne, if_false] at h1
          rw [Memory.read_below hm.2 (by omega)] at h1
          exact absurd h1.symm hn.1.2
      subst hb
      have hw : w = w' := by simpa [Memory.read] using h b
      subst hw
      have hrest : rest = rest' := by
        refine ih hm.2 hn.2 (fun a => ?_)
        rcases Nat.lt_or_ge a (b + 1) with hlt | hge
        · rw [Memory.read_below hm.2 hlt, Memory.read_below hn.2 hlt]
        · have h1 := h a
          have hne : a ≠ b := by omega
          simpa [Memory.read, hne] using h1
      rw [hrest]

end Sys2Proof.Machine
end

