-- ==== Sys2Proof/Laws/State.lean ====
section
/-! SUPPORT. One lemma per field for each update of the state, so that no proof unfolds a record update. -/

namespace Sys2Proof.Machine

/-! ### `emit` -/

@[simp] theorem emit_ticks (f : Frame) (s : State) : (emit f s).ticks = s.ticks := rfl
@[simp] theorem emit_countdown (f : Frame) (s : State) : (emit f s).countdown = s.countdown := rfl
@[simp] theorem emit_stopwatch (f : Frame) (s : State) : (emit f s).stopwatch = s.stopwatch := rfl
@[simp] theorem emit_tbArmed (f : Frame) (s : State) : (emit f s).tbArmed = s.tbArmed := rfl
@[simp] theorem emit_sleeping (f : Frame) (s : State) : (emit f s).sleeping = s.sleeping := rfl
@[simp] theorem emit_mode (f : Frame) (s : State) : (emit f s).mode = s.mode := rfl
@[simp] theorem emit_pendingEvent (f : Frame) (s : State) : (emit f s).pendingEvent = s.pendingEvent := rfl
@[simp] theorem emit_bytesNeeded (f : Frame) (s : State) : (emit f s).bytesNeeded = s.bytesNeeded := rfl
@[simp] theorem emit_bytesReceived (f : Frame) (s : State) : (emit f s).bytesReceived = s.bytesReceived := rfl
@[simp] theorem emit_lastDataByte (f : Frame) (s : State) : (emit f s).lastDataByte = s.lastDataByte := rfl
@[simp] theorem emit_channelFilter (f : Frame) (s : State) : (emit f s).channelFilter = s.channelFilter := rfl
@[simp] theorem emit_lastStatusSent (f : Frame) (s : State) : (emit f s).lastStatusSent = s.lastStatusSent := rfl
@[simp] theorem emit_sendFullCommands (f : Frame) (s : State) : (emit f s).sendFullCommands = s.sendFullCommands := rfl
@[simp] theorem emit_blob (f : Frame) (s : State) : (emit f s).blob = s.blob := rfl
@[simp] theorem emit_keyGen (f : Frame) (s : State) : (emit f s).keyGen = s.keyGen := rfl
@[simp] theorem emit_keyGeneration (f : Frame) (s : State) : (emit f s).keyGeneration = s.keyGeneration := rfl
@[simp] theorem emit_keyLast (f : Frame) (s : State) : (emit f s).keyLast = s.keyLast := rfl
@[simp] theorem emit_knob (f : Frame) (s : State) : (emit f s).knob = s.knob := rfl
@[simp] theorem emit_fsCandidate (f : Frame) (s : State) : (emit f s).fsCandidate = s.fsCandidate := rfl
@[simp] theorem emit_fsBuf (f : Frame) (s : State) : (emit f s).fsBuf = s.fsBuf := rfl
@[simp] theorem emit_fsSlot (f : Frame) (s : State) : (emit f s).fsSlot = s.fsSlot := rfl
@[simp] theorem emit_fsLast (f : Frame) (s : State) : (emit f s).fsLast = s.fsLast := rfl
@[simp] theorem emit_pc (f : Frame) (s : State) : (emit f s).pc = s.pc := rfl
@[simp] theorem emit_haltReason (f : Frame) (s : State) : (emit f s).haltReason = s.haltReason := rfl
@[simp] theorem emit_snapshotPending (f : Frame) (s : State) : (emit f s).snapshotPending = s.snapshotPending := rfl
@[simp] theorem emit_bootProgress (f : Frame) (s : State) : (emit f s).bootProgress = s.bootProgress := rfl
@[simp] theorem emit_rgb (f : Frame) (s : State) : (emit f s).rgb = s.rgb := rfl
@[simp] theorem emit_midiRx (f : Frame) (s : State) : (emit f s).midiRx = s.midiRx := rfl
@[simp] theorem emit_cmdRx (f : Frame) (s : State) : (emit f s).cmdRx = s.cmdRx := rfl
@[simp] theorem emit_out (f : Frame) (s : State) : (emit f s).out = s.out ++ [f] := rfl
@[simp] theorem emit_adcSample (f : Frame) (s : State) : (emit f s).adcSample = s.adcSample := rfl
@[simp] theorem emit_adcBatchComplete (f : Frame) (s : State) : (emit f s).adcBatchComplete = s.adcBatchComplete := rfl
@[simp] theorem emit_pins (f : Frame) (s : State) : (emit f s).pins = s.pins := rfl
@[simp] theorem emit_initOk (f : Frame) (s : State) : (emit f s).initOk = s.initOk := rfl
@[simp] theorem emit_passthroughSink (f : Frame) (s : State) : (emit f s).passthroughSink = s.passthroughSink := rfl
@[simp] theorem emit_display (f : Frame) (s : State) : (emit f s).display = s.display := rfl
@[simp] theorem emit_fired (f : Frame) (s : State) : (emit f s).fired = s.fired := rfl
@[simp] theorem emit_cfg (f : Frame) (s : State) : (emit f s).cfg = s.cfg := rfl
@[simp] theorem emit_sched (f : Frame) (s : State) : (emit f s).sched = s.sched := rfl
@[simp] theorem emit_ret (f : Frame) (s : State) : (emit f s).ret = s.ret := rfl
@[simp] theorem emit_freeCount (f : Frame) (s : State) : (emit f s).freeCount = s.freeCount := rfl

/-! ### `emitAll` -/

@[simp] theorem emitAll_ticks (fs : List Frame) (s : State) : (emitAll fs s).ticks = s.ticks := rfl
@[simp] theorem emitAll_countdown (fs : List Frame) (s : State) : (emitAll fs s).countdown = s.countdown := rfl
@[simp] theorem emitAll_stopwatch (fs : List Frame) (s : State) : (emitAll fs s).stopwatch = s.stopwatch := rfl
@[simp] theorem emitAll_tbArmed (fs : List Frame) (s : State) : (emitAll fs s).tbArmed = s.tbArmed := rfl
@[simp] theorem emitAll_sleeping (fs : List Frame) (s : State) : (emitAll fs s).sleeping = s.sleeping := rfl
@[simp] theorem emitAll_mode (fs : List Frame) (s : State) : (emitAll fs s).mode = s.mode := rfl
@[simp] theorem emitAll_pendingEvent (fs : List Frame) (s : State) : (emitAll fs s).pendingEvent = s.pendingEvent := rfl
@[simp] theorem emitAll_bytesNeeded (fs : List Frame) (s : State) : (emitAll fs s).bytesNeeded = s.bytesNeeded := rfl
@[simp] theorem emitAll_bytesReceived (fs : List Frame) (s : State) : (emitAll fs s).bytesReceived = s.bytesReceived := rfl
@[simp] theorem emitAll_lastDataByte (fs : List Frame) (s : State) : (emitAll fs s).lastDataByte = s.lastDataByte := rfl
@[simp] theorem emitAll_channelFilter (fs : List Frame) (s : State) : (emitAll fs s).channelFilter = s.channelFilter := rfl
@[simp] theorem emitAll_lastStatusSent (fs : List Frame) (s : State) : (emitAll fs s).lastStatusSent = s.lastStatusSent := rfl
@[simp] theorem emitAll_sendFullCommands (fs : List Frame) (s : State) : (emitAll fs s).sendFullCommands = s.sendFullCommands := rfl
@[simp] theorem emitAll_blob (fs : List Frame) (s : State) : (emitAll fs s).blob = s.blob := rfl
@[simp] theorem emitAll_keyGen (fs : List Frame) (s : State) : (emitAll fs s).keyGen = s.keyGen := rfl
@[simp] theorem emitAll_keyGeneration (fs : List Frame) (s : State) : (emitAll fs s).keyGeneration = s.keyGeneration := rfl
@[simp] theorem emitAll_keyLast (fs : List Frame) (s : State) : (emitAll fs s).keyLast = s.keyLast := rfl
@[simp] theorem emitAll_knob (fs : List Frame) (s : State) : (emitAll fs s).knob = s.knob := rfl
@[simp] theorem emitAll_fsCandidate (fs : List Frame) (s : State) : (emitAll fs s).fsCandidate = s.fsCandidate := rfl
@[simp] theorem emitAll_fsBuf (fs : List Frame) (s : State) : (emitAll fs s).fsBuf = s.fsBuf := rfl
@[simp] theorem emitAll_fsSlot (fs : List Frame) (s : State) : (emitAll fs s).fsSlot = s.fsSlot := rfl
@[simp] theorem emitAll_fsLast (fs : List Frame) (s : State) : (emitAll fs s).fsLast = s.fsLast := rfl
@[simp] theorem emitAll_pc (fs : List Frame) (s : State) : (emitAll fs s).pc = s.pc := rfl
@[simp] theorem emitAll_haltReason (fs : List Frame) (s : State) : (emitAll fs s).haltReason = s.haltReason := rfl
@[simp] theorem emitAll_snapshotPending (fs : List Frame) (s : State) : (emitAll fs s).snapshotPending = s.snapshotPending := rfl
@[simp] theorem emitAll_bootProgress (fs : List Frame) (s : State) : (emitAll fs s).bootProgress = s.bootProgress := rfl
@[simp] theorem emitAll_rgb (fs : List Frame) (s : State) : (emitAll fs s).rgb = s.rgb := rfl
@[simp] theorem emitAll_midiRx (fs : List Frame) (s : State) : (emitAll fs s).midiRx = s.midiRx := rfl
@[simp] theorem emitAll_cmdRx (fs : List Frame) (s : State) : (emitAll fs s).cmdRx = s.cmdRx := rfl
@[simp] theorem emitAll_out (fs : List Frame) (s : State) : (emitAll fs s).out = s.out ++ fs := rfl
@[simp] theorem emitAll_adcSample (fs : List Frame) (s : State) : (emitAll fs s).adcSample = s.adcSample := rfl
@[simp] theorem emitAll_adcBatchComplete (fs : List Frame) (s : State) : (emitAll fs s).adcBatchComplete = s.adcBatchComplete := rfl
@[simp] theorem emitAll_pins (fs : List Frame) (s : State) : (emitAll fs s).pins = s.pins := rfl
@[simp] theorem emitAll_initOk (fs : List Frame) (s : State) : (emitAll fs s).initOk = s.initOk := rfl
@[simp] theorem emitAll_passthroughSink (fs : List Frame) (s : State) : (emitAll fs s).passthroughSink = s.passthroughSink := rfl
@[simp] theorem emitAll_display (fs : List Frame) (s : State) : (emitAll fs s).display = s.display := rfl
@[simp] theorem emitAll_fired (fs : List Frame) (s : State) : (emitAll fs s).fired = s.fired := rfl
@[simp] theorem emitAll_cfg (fs : List Frame) (s : State) : (emitAll fs s).cfg = s.cfg := rfl
@[simp] theorem emitAll_sched (fs : List Frame) (s : State) : (emitAll fs s).sched = s.sched := rfl
@[simp] theorem emitAll_ret (fs : List Frame) (s : State) : (emitAll fs s).ret = s.ret := rfl
@[simp] theorem emitAll_freeCount (fs : List Frame) (s : State) : (emitAll fs s).freeCount = s.freeCount := rfl

/-! ### `toSink` -/

@[simp] theorem toSink_ticks (x : SinkItem) (s : State) : (toSink x s).ticks = s.ticks := rfl
@[simp] theorem toSink_countdown (x : SinkItem) (s : State) : (toSink x s).countdown = s.countdown := rfl
@[simp] theorem toSink_stopwatch (x : SinkItem) (s : State) : (toSink x s).stopwatch = s.stopwatch := rfl
@[simp] theorem toSink_tbArmed (x : SinkItem) (s : State) : (toSink x s).tbArmed = s.tbArmed := rfl
@[simp] theorem toSink_sleeping (x : SinkItem) (s : State) : (toSink x s).sleeping = s.sleeping := rfl
@[simp] theorem toSink_mode (x : SinkItem) (s : State) : (toSink x s).mode = s.mode := rfl
@[simp] theorem toSink_pendingEvent (x : SinkItem) (s : State) : (toSink x s).pendingEvent = s.pendingEvent := rfl
@[simp] theorem toSink_bytesNeeded (x : SinkItem) (s : State) : (toSink x s).bytesNeeded = s.bytesNeeded := rfl
@[simp] theorem toSink_bytesReceived (x : SinkItem) (s : State) : (toSink x s).bytesReceived = s.bytesReceived := rfl
@[simp] theorem toSink_lastDataByte (x : SinkItem) (s : State) : (toSink x s).lastDataByte = s.lastDataByte := rfl
@[simp] theorem toSink_channelFilter (x : SinkItem) (s : State) : (toSink x s).channelFilter = s.channelFilter := rfl
@[simp] theorem toSink_lastStatusSent (x : SinkItem) (s : State) : (toSink x s).lastStatusSent = s.lastStatusSent := rfl
@[simp] theorem toSink_sendFullCommands (x : SinkItem) (s : State) : (toSink x s).sendFullCommands = s.sendFullCommands := rfl
@[simp] theorem toSink_blob (x : SinkItem) (s : State) : (toSink x s).blob = s.blob := rfl
@[simp] theorem toSink_keyGen (x : SinkItem) (s : State) : (toSink x s).keyGen = s.keyGen := rfl
@[simp] theorem toSink_keyGeneration (x : SinkItem) (s : State) : (toSink x s).keyGeneration = s.keyGeneration := rfl
@[simp] theorem toSink_keyLast (x : SinkItem) (s : State) : (toSink x s).keyLast = s.keyLast := rfl
@[simp] theorem toSink_knob (x : SinkItem) (s : State) : (toSink x s).knob = s.knob := rfl
@[simp] theorem toSink_fsCandidate (x : SinkItem) (s : State) : (toSink x s).fsCandidate = s.fsCandidate := rfl
@[simp] theorem toSink_fsBuf (x : SinkItem) (s : State) : (toSink x s).fsBuf = s.fsBuf := rfl
@[simp] theorem toSink_fsSlot (x : SinkItem) (s : State) : (toSink x s).fsSlot = s.fsSlot := rfl
@[simp] theorem toSink_fsLast (x : SinkItem) (s : State) : (toSink x s).fsLast = s.fsLast := rfl
@[simp] theorem toSink_pc (x : SinkItem) (s : State) : (toSink x s).pc = s.pc := rfl
@[simp] theorem toSink_haltReason (x : SinkItem) (s : State) : (toSink x s).haltReason = s.haltReason := rfl
@[simp] theorem toSink_snapshotPending (x : SinkItem) (s : State) : (toSink x s).snapshotPending = s.snapshotPending := rfl
@[simp] theorem toSink_bootProgress (x : SinkItem) (s : State) : (toSink x s).bootProgress = s.bootProgress := rfl
@[simp] theorem toSink_rgb (x : SinkItem) (s : State) : (toSink x s).rgb = s.rgb := rfl
@[simp] theorem toSink_midiRx (x : SinkItem) (s : State) : (toSink x s).midiRx = s.midiRx := rfl
@[simp] theorem toSink_cmdRx (x : SinkItem) (s : State) : (toSink x s).cmdRx = s.cmdRx := rfl
@[simp] theorem toSink_out (x : SinkItem) (s : State) : (toSink x s).out = s.out := rfl
@[simp] theorem toSink_adcSample (x : SinkItem) (s : State) : (toSink x s).adcSample = s.adcSample := rfl
@[simp] theorem toSink_adcBatchComplete (x : SinkItem) (s : State) : (toSink x s).adcBatchComplete = s.adcBatchComplete := rfl
@[simp] theorem toSink_pins (x : SinkItem) (s : State) : (toSink x s).pins = s.pins := rfl
@[simp] theorem toSink_initOk (x : SinkItem) (s : State) : (toSink x s).initOk = s.initOk := rfl
@[simp] theorem toSink_passthroughSink (x : SinkItem) (s : State) : (toSink x s).passthroughSink = s.passthroughSink ++ [x] := rfl
@[simp] theorem toSink_display (x : SinkItem) (s : State) : (toSink x s).display = s.display := rfl
@[simp] theorem toSink_fired (x : SinkItem) (s : State) : (toSink x s).fired = s.fired := rfl
@[simp] theorem toSink_cfg (x : SinkItem) (s : State) : (toSink x s).cfg = s.cfg := rfl
@[simp] theorem toSink_sched (x : SinkItem) (s : State) : (toSink x s).sched = s.sched := rfl
@[simp] theorem toSink_ret (x : SinkItem) (s : State) : (toSink x s).ret = s.ret := rfl
@[simp] theorem toSink_freeCount (x : SinkItem) (s : State) : (toSink x s).freeCount = s.freeCount := rfl

/-! ### `record` -/

@[simp] theorem record_ticks (e : MidiEvent) (s : State) : (record e s).ticks = s.ticks := rfl
@[simp] theorem record_countdown (e : MidiEvent) (s : State) : (record e s).countdown = s.countdown := rfl
@[simp] theorem record_stopwatch (e : MidiEvent) (s : State) : (record e s).stopwatch = s.stopwatch := rfl
@[simp] theorem record_tbArmed (e : MidiEvent) (s : State) : (record e s).tbArmed = s.tbArmed := rfl
@[simp] theorem record_sleeping (e : MidiEvent) (s : State) : (record e s).sleeping = s.sleeping := rfl
@[simp] theorem record_mode (e : MidiEvent) (s : State) : (record e s).mode = s.mode := rfl
@[simp] theorem record_pendingEvent (e : MidiEvent) (s : State) : (record e s).pendingEvent = s.pendingEvent := rfl
@[simp] theorem record_bytesNeeded (e : MidiEvent) (s : State) : (record e s).bytesNeeded = s.bytesNeeded := rfl
@[simp] theorem record_bytesReceived (e : MidiEvent) (s : State) : (record e s).bytesReceived = s.bytesReceived := rfl
@[simp] theorem record_lastDataByte (e : MidiEvent) (s : State) : (record e s).lastDataByte = s.lastDataByte := rfl
@[simp] theorem record_channelFilter (e : MidiEvent) (s : State) : (record e s).channelFilter = s.channelFilter := rfl
@[simp] theorem record_lastStatusSent (e : MidiEvent) (s : State) : (record e s).lastStatusSent = s.lastStatusSent := rfl
@[simp] theorem record_sendFullCommands (e : MidiEvent) (s : State) : (record e s).sendFullCommands = s.sendFullCommands := rfl
@[simp] theorem record_blob (e : MidiEvent) (s : State) : (record e s).blob = s.blob := rfl
@[simp] theorem record_keyGen (e : MidiEvent) (s : State) : (record e s).keyGen = s.keyGen := rfl
@[simp] theorem record_keyGeneration (e : MidiEvent) (s : State) : (record e s).keyGeneration = s.keyGeneration := rfl
@[simp] theorem record_keyLast (e : MidiEvent) (s : State) : (record e s).keyLast = s.keyLast := rfl
@[simp] theorem record_knob (e : MidiEvent) (s : State) : (record e s).knob = s.knob := rfl
@[simp] theorem record_fsCandidate (e : MidiEvent) (s : State) : (record e s).fsCandidate = s.fsCandidate := rfl
@[simp] theorem record_fsBuf (e : MidiEvent) (s : State) : (record e s).fsBuf = s.fsBuf := rfl
@[simp] theorem record_fsSlot (e : MidiEvent) (s : State) : (record e s).fsSlot = s.fsSlot := rfl
@[simp] theorem record_fsLast (e : MidiEvent) (s : State) : (record e s).fsLast = s.fsLast := rfl
@[simp] theorem record_pc (e : MidiEvent) (s : State) : (record e s).pc = s.pc := rfl
@[simp] theorem record_haltReason (e : MidiEvent) (s : State) : (record e s).haltReason = s.haltReason := rfl
@[simp] theorem record_snapshotPending (e : MidiEvent) (s : State) : (record e s).snapshotPending = s.snapshotPending := rfl
@[simp] theorem record_bootProgress (e : MidiEvent) (s : State) : (record e s).bootProgress = s.bootProgress := rfl
@[simp] theorem record_rgb (e : MidiEvent) (s : State) : (record e s).rgb = s.rgb := rfl
@[simp] theorem record_midiRx (e : MidiEvent) (s : State) : (record e s).midiRx = s.midiRx := rfl
@[simp] theorem record_cmdRx (e : MidiEvent) (s : State) : (record e s).cmdRx = s.cmdRx := rfl
@[simp] theorem record_out (e : MidiEvent) (s : State) : (record e s).out = s.out := rfl
@[simp] theorem record_adcSample (e : MidiEvent) (s : State) : (record e s).adcSample = s.adcSample := rfl
@[simp] theorem record_adcBatchComplete (e : MidiEvent) (s : State) : (record e s).adcBatchComplete = s.adcBatchComplete := rfl
@[simp] theorem record_pins (e : MidiEvent) (s : State) : (record e s).pins = s.pins := rfl
@[simp] theorem record_initOk (e : MidiEvent) (s : State) : (record e s).initOk = s.initOk := rfl
@[simp] theorem record_passthroughSink (e : MidiEvent) (s : State) : (record e s).passthroughSink = s.passthroughSink := rfl
@[simp] theorem record_display (e : MidiEvent) (s : State) : (record e s).display = s.display := rfl
@[simp] theorem record_fired (e : MidiEvent) (s : State) : (record e s).fired = s.fired ++ [e] := rfl
@[simp] theorem record_cfg (e : MidiEvent) (s : State) : (record e s).cfg = s.cfg := rfl
@[simp] theorem record_sched (e : MidiEvent) (s : State) : (record e s).sched = s.sched := rfl
@[simp] theorem record_ret (e : MidiEvent) (s : State) : (record e s).ret = s.ret := rfl
@[simp] theorem record_freeCount (e : MidiEvent) (s : State) : (record e s).freeCount = s.freeCount := rfl

/-! ### `blobWrite` -/

@[simp] theorem blobWrite_ticks (i : Nat) (v : Byte) (s : State) : (blobWrite i v s).ticks = s.ticks := rfl
@[simp] theorem blobWrite_countdown (i : Nat) (v : Byte) (s : State) : (blobWrite i v s).countdown = s.countdown := rfl
@[simp] theorem blobWrite_stopwatch (i : Nat) (v : Byte) (s : State) : (blobWrite i v s).stopwatch = s.stopwatch := rfl
@[simp] theorem blobWrite_tbArmed (i : Nat) (v : Byte) (s : State) : (blobWrite i v s).tbArmed = s.tbArmed := rfl
@[simp] theorem blobWrite_sleeping (i : Nat) (v : Byte) (s : State) : (blobWrite i v s).sleeping = s.sleeping := rfl
@[simp] theorem blobWrite_mode (i : Nat) (v : Byte) (s : State) : (blobWrite i v s).mode = s.mode := rfl
@[simp] theorem blobWrite_pendingEvent (i : Nat) (v : Byte) (s : State) : (blobWrite i v s).pendingEvent = s.pendingEvent := rfl
@[simp] theorem blobWrite_bytesNeeded (i : Nat) (v : Byte) (s : State) : (blobWrite i v s).bytesNeeded = s.bytesNeeded := rfl
@[simp] theorem blobWrite_bytesReceived (i : Nat) (v : Byte) (s : State) : (blobWrite i v s).bytesReceived = s.bytesReceived := rfl
@[simp] theorem blobWrite_lastDataByte (i : Nat) (v : Byte) (s : State) : (blobWrite i v s).lastDataByte = s.lastDataByte := rfl
@[simp] theorem blobWrite_channelFilter (i : Nat) (v : Byte) (s : State) : (blobWrite i v s).channelFilter = s.channelFilter := rfl
@[simp] theorem blobWrite_lastStatusSent (i : Nat) (v : Byte) (s : State) : (blobWrite i v s).lastStatusSent = s.lastStatusSent := rfl
@[simp] theorem blobWrite_sendFullCommands (i : Nat) (v : Byte) (s : State) : (blobWrite i v s).sendFullCommands = s.sendFullCommands := rfl
@[simp] theorem blobWrite_blob (i : Nat) (v : Byte) (s : State) : (blobWrite i v s).blob = Memory.write s.blob i v := rfl
@[simp] theorem blobWrite_keyGen (i : Nat) (v : Byte) (s : State) : (blobWrite i v s).keyGen = s.keyGen := rfl
@[simp] theorem blobWrite_keyGeneration (i : Nat) (v : Byte) (s : State) : (blobWrite i v s).keyGeneration = s.keyGeneration := rfl
@[simp] theorem blobWrite_keyLast (i : Nat) (v : Byte) (s : State) : (blobWrite i v s).keyLast = s.keyLast := rfl
@[simp] theorem blobWrite_knob (i : Nat) (v : Byte) (s : State) : (blobWrite i v s).knob = s.knob := rfl
@[simp] theorem blobWrite_fsCandidate (i : Nat) (v : Byte) (s : State) : (blobWrite i v s).fsCandidate = s.fsCandidate := rfl
@[simp] theorem blobWrite_fsBuf (i : Nat) (v : Byte) (s : State) : (blobWrite i v s).fsBuf = s.fsBuf := rfl
@[simp] theorem blobWrite_fsSlot (i : Nat) (v : Byte) (s : State) : (blobWrite i v s).fsSlot = s.fsSlot := rfl
@[simp] theorem blobWrite_fsLast (i : Nat) (v : Byte) (s : State) : (blobWrite i v s).fsLast = s.fsLast := rfl
@[simp] theorem blobWrite_pc (i : Nat) (v : Byte) (s : State) : (blobWrite i v s).pc = s.pc := rfl
@[simp] theorem blobWrite_haltReason (i : Nat) (v : Byte) (s : State) : (blobWrite i v s).haltReason = s.haltReason := rfl
@[simp] theorem blobWrite_snapshotPending (i : Nat) (v : Byte) (s : State) : (blobWrite i v s).snapshotPending = s.snapshotPending := rfl
@[simp] theorem blobWrite_bootProgress (i : Nat) (v : Byte) (s : State) : (blobWrite i v s).bootProgress = s.bootProgress := rfl
@[simp] theorem blobWrite_rgb (i : Nat) (v : Byte) (s : State) : (blobWrite i v s).rgb = s.rgb := rfl
@[simp] theorem blobWrite_midiRx (i : Nat) (v : Byte) (s : State) : (blobWrite i v s).midiRx = s.midiRx := rfl
@[simp] theorem blobWrite_cmdRx (i : Nat) (v : Byte) (s : State) : (blobWrite i v s).cmdRx = s.cmdRx := rfl
@[simp] theorem blobWrite_out (i : Nat) (v : Byte) (s : State) : (blobWrite i v s).out = s.out := rfl
@[simp] theorem blobWrite_adcSample (i : Nat) (v : Byte) (s : State) : (blobWrite i v s).adcSample = s.adcSample := rfl
@[simp] theorem blobWrite_adcBatchComplete (i : Nat) (v : Byte) (s : State) : (blobWrite i v s).adcBatchComplete = s.adcBatchComplete := rfl
@[simp] theorem blobWrite_pins (i : Nat) (v : Byte) (s : State) : (blobWrite i v s).pins = s.pins := rfl
@[simp] theorem blobWrite_initOk (i : Nat) (v : Byte) (s : State) : (blobWrite i v s).initOk = s.initOk := rfl
@[simp] theorem blobWrite_passthroughSink (i : Nat) (v : Byte) (s : State) : (blobWrite i v s).passthroughSink = s.passthroughSink := rfl
@[simp] theorem blobWrite_display (i : Nat) (v : Byte) (s : State) : (blobWrite i v s).display = s.display := rfl
@[simp] theorem blobWrite_fired (i : Nat) (v : Byte) (s : State) : (blobWrite i v s).fired = s.fired := rfl
@[simp] theorem blobWrite_cfg (i : Nat) (v : Byte) (s : State) : (blobWrite i v s).cfg = s.cfg := rfl
@[simp] theorem blobWrite_sched (i : Nat) (v : Byte) (s : State) : (blobWrite i v s).sched = s.sched := rfl
@[simp] theorem blobWrite_ret (i : Nat) (v : Byte) (s : State) : (blobWrite i v s).ret = s.ret := rfl
@[simp] theorem blobWrite_freeCount (i : Nat) (v : Byte) (s : State) : (blobWrite i v s).freeCount = s.freeCount := rfl

/-! ### `blobZero` -/

@[simp] theorem blobZero_ticks (s : State) : (blobZero s).ticks = s.ticks := rfl
@[simp] theorem blobZero_countdown (s : State) : (blobZero s).countdown = s.countdown := rfl
@[simp] theorem blobZero_stopwatch (s : State) : (blobZero s).stopwatch = s.stopwatch := rfl
@[simp] theorem blobZero_tbArmed (s : State) : (blobZero s).tbArmed = s.tbArmed := rfl
@[simp] theorem blobZero_sleeping (s : State) : (blobZero s).sleeping = s.sleeping := rfl
@[simp] theorem blobZero_mode (s : State) : (blobZero s).mode = s.mode := rfl
@[simp] theorem blobZero_pendingEvent (s : State) : (blobZero s).pendingEvent = s.pendingEvent := rfl
@[simp] theorem blobZero_bytesNeeded (s : State) : (blobZero s).bytesNeeded = s.bytesNeeded := rfl
@[simp] theorem blobZero_bytesReceived (s : State) : (blobZero s).bytesReceived = s.bytesReceived := rfl
@[simp] theorem blobZero_lastDataByte (s : State) : (blobZero s).lastDataByte = s.lastDataByte := rfl
@[simp] theorem blobZero_channelFilter (s : State) : (blobZero s).channelFilter = s.channelFilter := rfl
@[simp] theorem blobZero_lastStatusSent (s : State) : (blobZero s).lastStatusSent = s.lastStatusSent := rfl
@[simp] theorem blobZero_sendFullCommands (s : State) : (blobZero s).sendFullCommands = s.sendFullCommands := rfl
@[simp] theorem blobZero_blob (s : State) : (blobZero s).blob = [] := rfl
@[simp] theorem blobZero_keyGen (s : State) : (blobZero s).keyGen = s.keyGen := rfl
@[simp] theorem blobZero_keyGeneration (s : State) : (blobZero s).keyGeneration = s.keyGeneration := rfl
@[simp] theorem blobZero_keyLast (s : State) : (blobZero s).keyLast = s.keyLast := rfl
@[simp] theorem blobZero_knob (s : State) : (blobZero s).knob = s.knob := rfl
@[simp] theorem blobZero_fsCandidate (s : State) : (blobZero s).fsCandidate = s.fsCandidate := rfl
@[simp] theorem blobZero_fsBuf (s : State) : (blobZero s).fsBuf = s.fsBuf := rfl
@[simp] theorem blobZero_fsSlot (s : State) : (blobZero s).fsSlot = s.fsSlot := rfl
@[simp] theorem blobZero_fsLast (s : State) : (blobZero s).fsLast = s.fsLast := rfl
@[simp] theorem blobZero_pc (s : State) : (blobZero s).pc = s.pc := rfl
@[simp] theorem blobZero_haltReason (s : State) : (blobZero s).haltReason = s.haltReason := rfl
@[simp] theorem blobZero_snapshotPending (s : State) : (blobZero s).snapshotPending = s.snapshotPending := rfl
@[simp] theorem blobZero_bootProgress (s : State) : (blobZero s).bootProgress = s.bootProgress := rfl
@[simp] theorem blobZero_rgb (s : State) : (blobZero s).rgb = s.rgb := rfl
@[simp] theorem blobZero_midiRx (s : State) : (blobZero s).midiRx = s.midiRx := rfl
@[simp] theorem blobZero_cmdRx (s : State) : (blobZero s).cmdRx = s.cmdRx := rfl
@[simp] theorem blobZero_out (s : State) : (blobZero s).out = s.out := rfl
@[simp] theorem blobZero_adcSample (s : State) : (blobZero s).adcSample = s.adcSample := rfl
@[simp] theorem blobZero_adcBatchComplete (s : State) : (blobZero s).adcBatchComplete = s.adcBatchComplete := rfl
@[simp] theorem blobZero_pins (s : State) : (blobZero s).pins = s.pins := rfl
@[simp] theorem blobZero_initOk (s : State) : (blobZero s).initOk = s.initOk := rfl
@[simp] theorem blobZero_passthroughSink (s : State) : (blobZero s).passthroughSink = s.passthroughSink := rfl
@[simp] theorem blobZero_display (s : State) : (blobZero s).display = s.display := rfl
@[simp] theorem blobZero_fired (s : State) : (blobZero s).fired = s.fired := rfl
@[simp] theorem blobZero_cfg (s : State) : (blobZero s).cfg = s.cfg := rfl
@[simp] theorem blobZero_sched (s : State) : (blobZero s).sched = s.sched := rfl
@[simp] theorem blobZero_ret (s : State) : (blobZero s).ret = s.ret := rfl
@[simp] theorem blobZero_freeCount (s : State) : (blobZero s).freeCount = s.freeCount := rfl

/-! ### `countDraw` -/

@[simp] theorem countDraw_ticks (s : State) : (countDraw s).ticks = s.ticks := rfl
@[simp] theorem countDraw_countdown (s : State) : (countDraw s).countdown = s.countdown := rfl
@[simp] theorem countDraw_stopwatch (s : State) : (countDraw s).stopwatch = s.stopwatch := rfl
@[simp] theorem countDraw_tbArmed (s : State) : (countDraw s).tbArmed = s.tbArmed := rfl
@[simp] theorem countDraw_sleeping (s : State) : (countDraw s).sleeping = s.sleeping := rfl
@[simp] theorem countDraw_mode (s : State) : (countDraw s).mode = s.mode := rfl
@[simp] theorem countDraw_pendingEvent (s : State) : (countDraw s).pendingEvent = s.pendingEvent := rfl
@[simp] theorem countDraw_bytesNeeded (s : State) : (countDraw s).bytesNeeded = s.bytesNeeded := rfl
@[simp] theorem countDraw_bytesReceived (s : State) : (countDraw s).bytesReceived = s.bytesReceived := rfl
@[simp] theorem countDraw_lastDataByte (s : State) : (countDraw s).lastDataByte = s.lastDataByte := rfl
@[simp] theorem countDraw_channelFilter (s : State) : (countDraw s).channelFilter = s.channelFilter := rfl
@[simp] theorem countDraw_lastStatusSent (s : State) : (countDraw s).lastStatusSent = s.lastStatusSent := rfl
@[simp] theorem countDraw_sendFullCommands (s : State) : (countDraw s).sendFullCommands = s.sendFullCommands := rfl
@[simp] theorem countDraw_blob (s : State) : (countDraw s).blob = s.blob := rfl
@[simp] theorem countDraw_keyGen (s : State) : (countDraw s).keyGen = s.keyGen := rfl
@[simp] theorem countDraw_keyGeneration (s : State) : (countDraw s).keyGeneration = s.keyGeneration := rfl
@[simp] theorem countDraw_keyLast (s : State) : (countDraw s).keyLast = s.keyLast := rfl
@[simp] theorem countDraw_knob (s : State) : (countDraw s).knob = s.knob := rfl
@[simp] theorem countDraw_fsCandidate (s : State) : (countDraw s).fsCandidate = s.fsCandidate := rfl
@[simp] theorem countDraw_fsBuf (s : State) : (countDraw s).fsBuf = s.fsBuf := rfl
@[simp] theorem countDraw_fsSlot (s : State) : (countDraw s).fsSlot = s.fsSlot := rfl
@[simp] theorem countDraw_fsLast (s : State) : (countDraw s).fsLast = s.fsLast := rfl
@[simp] theorem countDraw_pc (s : State) : (countDraw s).pc = s.pc := rfl
@[simp] theorem countDraw_haltReason (s : State) : (countDraw s).haltReason = s.haltReason := rfl
@[simp] theorem countDraw_snapshotPending (s : State) : (countDraw s).snapshotPending = s.snapshotPending := rfl
@[simp] theorem countDraw_bootProgress (s : State) : (countDraw s).bootProgress = s.bootProgress := rfl
@[simp] theorem countDraw_rgb (s : State) : (countDraw s).rgb = s.rgb := rfl
@[simp] theorem countDraw_midiRx (s : State) : (countDraw s).midiRx = s.midiRx := rfl
@[simp] theorem countDraw_cmdRx (s : State) : (countDraw s).cmdRx = s.cmdRx := rfl
@[simp] theorem countDraw_out (s : State) : (countDraw s).out = s.out := rfl
@[simp] theorem countDraw_adcSample (s : State) : (countDraw s).adcSample = s.adcSample := rfl
@[simp] theorem countDraw_adcBatchComplete (s : State) : (countDraw s).adcBatchComplete = s.adcBatchComplete := rfl
@[simp] theorem countDraw_pins (s : State) : (countDraw s).pins = s.pins := rfl
@[simp] theorem countDraw_initOk (s : State) : (countDraw s).initOk = s.initOk := rfl
@[simp] theorem countDraw_passthroughSink (s : State) : (countDraw s).passthroughSink = s.passthroughSink := rfl
@[simp] theorem countDraw_display (s : State) : (countDraw s).display = s.display := rfl
@[simp] theorem countDraw_fired (s : State) : (countDraw s).fired = s.fired := rfl
@[simp] theorem countDraw_cfg (s : State) : (countDraw s).cfg = s.cfg := rfl
@[simp] theorem countDraw_sched (s : State) : (countDraw s).sched = s.sched := rfl
@[simp] theorem countDraw_ret (s : State) : (countDraw s).ret = s.ret := rfl
@[simp] theorem countDraw_freeCount (s : State) : (countDraw s).freeCount = s.freeCount + 1 := rfl

/-! ### `armTimebase` -/

@[simp] theorem armTimebase_ticks (s : State) : (armTimebase s).ticks = s.ticks := rfl
@[simp] theorem armTimebase_countdown (s : State) : (armTimebase s).countdown = s.countdown := rfl
@[simp] theorem armTimebase_stopwatch (s : State) : (armTimebase s).stopwatch = s.stopwatch := rfl
@[simp] theorem armTimebase_tbArmed (s : State) : (armTimebase s).tbArmed = true := rfl
@[simp] theorem armTimebase_sleeping (s : State) : (armTimebase s).sleeping = s.sleeping := rfl
@[simp] theorem armTimebase_mode (s : State) : (armTimebase s).mode = s.mode := rfl
@[simp] theorem armTimebase_pendingEvent (s : State) : (armTimebase s).pendingEvent = s.pendingEvent := rfl
@[simp] theorem armTimebase_bytesNeeded (s : State) : (armTimebase s).bytesNeeded = s.bytesNeeded := rfl
@[simp] theorem armTimebase_bytesReceived (s : State) : (armTimebase s).bytesReceived = s.bytesReceived := rfl
@[simp] theorem armTimebase_lastDataByte (s : State) : (armTimebase s).lastDataByte = s.lastDataByte := rfl
@[simp] theorem armTimebase_channelFilter (s : State) : (armTimebase s).channelFilter = s.channelFilter := rfl
@[simp] theorem armTimebase_lastStatusSent (s : State) : (armTimebase s).lastStatusSent = s.lastStatusSent := rfl
@[simp] theorem armTimebase_sendFullCommands (s : State) : (armTimebase s).sendFullCommands = s.sendFullCommands := rfl
@[simp] theorem armTimebase_blob (s : State) : (armTimebase s).blob = s.blob := rfl
@[simp] theorem armTimebase_keyGen (s : State) : (armTimebase s).keyGen = s.keyGen := rfl
@[simp] theorem armTimebase_keyGeneration (s : State) : (armTimebase s).keyGeneration = s.keyGeneration := rfl
@[simp] theorem armTimebase_keyLast (s : State) : (armTimebase s).keyLast = s.keyLast := rfl
@[simp] theorem armTimebase_knob (s : State) : (armTimebase s).knob = s.knob := rfl
@[simp] theorem armTimebase_fsCandidate (s : State) : (armTimebase s).fsCandidate = s.fsCandidate := rfl
@[simp] theorem armTimebase_fsBuf (s : State) : (armTimebase s).fsBuf = s.fsBuf := rfl
@[simp] theorem armTimebase_fsSlot (s : State) : (armTimebase s).fsSlot = s.fsSlot := rfl
@[simp] theorem armTimebase_fsLast (s : State) : (armTimebase s).fsLast = s.fsLast := rfl
@[simp] theorem armTimebase_pc (s : State) : (armTimebase s).pc = s.pc := rfl
@[simp] theorem armTimebase_haltReason (s : State) : (armTimebase s).haltReason = s.haltReason := rfl
@[simp] theorem armTimebase_snapshotPending (s : State) : (armTimebase s).snapshotPending = s.snapshotPending := rfl
@[simp] theorem armTimebase_bootProgress (s : State) : (armTimebase s).bootProgress = s.bootProgress := rfl
@[simp] theorem armTimebase_rgb (s : State) : (armTimebase s).rgb = s.rgb := rfl
@[simp] theorem armTimebase_midiRx (s : State) : (armTimebase s).midiRx = s.midiRx := rfl
@[simp] theorem armTimebase_cmdRx (s : State) : (armTimebase s).cmdRx = s.cmdRx := rfl
@[simp] theorem armTimebase_out (s : State) : (armTimebase s).out = s.out := rfl
@[simp] theorem armTimebase_adcSample (s : State) : (armTimebase s).adcSample = s.adcSample := rfl
@[simp] theorem armTimebase_adcBatchComplete (s : State) : (armTimebase s).adcBatchComplete = s.adcBatchComplete := rfl
@[simp] theorem armTimebase_pins (s : State) : (armTimebase s).pins = s.pins := rfl
@[simp] theorem armTimebase_initOk (s : State) : (armTimebase s).initOk = s.initOk := rfl
@[simp] theorem armTimebase_passthroughSink (s : State) : (armTimebase s).passthroughSink = s.passthroughSink := rfl
@[simp] theorem armTimebase_display (s : State) : (armTimebase s).display = s.display := rfl
@[simp] theorem armTimebase_fired (s : State) : (armTimebase s).fired = s.fired := rfl
@[simp] theorem armTimebase_cfg (s : State) : (armTimebase s).cfg = s.cfg := rfl
@[simp] theorem armTimebase_sched (s : State) : (armTimebase s).sched = s.sched := rfl
@[simp] theorem armTimebase_ret (s : State) : (armTimebase s).ret = s.ret := rfl
@[simp] theorem armTimebase_freeCount (s : State) : (armTimebase s).freeCount = s.freeCount := rfl

/-! ### `armSnapshot` -/

@[simp] theorem armSnapshot_ticks (s : State) : (armSnapshot s).ticks = s.ticks := rfl
@[simp] theorem armSnapshot_countdown (s : State) : (armSnapshot s).countdown = s.countdown := rfl
@[simp] theorem armSnapshot_stopwatch (s : State) : (armSnapshot s).stopwatch = s.stopwatch := rfl
@[simp] theorem armSnapshot_tbArmed (s : State) : (armSnapshot s).tbArmed = s.tbArmed := rfl
@[simp] theorem armSnapshot_sleeping (s : State) : (armSnapshot s).sleeping = s.sleeping := rfl
@[simp] theorem armSnapshot_mode (s : State) : (armSnapshot s).mode = s.mode := rfl
@[simp] theorem armSnapshot_pendingEvent (s : State) : (armSnapshot s).pendingEvent = s.pendingEvent := rfl
@[simp] theorem armSnapshot_bytesNeeded (s : State) : (armSnapshot s).bytesNeeded = s.bytesNeeded := rfl
@[simp] theorem armSnapshot_bytesReceived (s : State) : (armSnapshot s).bytesReceived = s.bytesReceived := rfl
@[simp] theorem armSnapshot_lastDataByte (s : State) : (armSnapshot s).lastDataByte = s.lastDataByte := rfl
@[simp] theorem armSnapshot_channelFilter (s : State) : (armSnapshot s).channelFilter = s.channelFilter := rfl
@[simp] theorem armSnapshot_lastStatusSent (s : State) : (armSnapshot s).lastStatusSent = s.lastStatusSent := rfl
@[simp] theorem armSnapshot_sendFullCommands (s : State) : (armSnapshot s).sendFullCommands = s.sendFullCommands := rfl
@[simp] theorem armSnapshot_blob (s : State) : (armSnapshot s).blob = s.blob := rfl
@[simp] theorem armSnapshot_keyGen (s : State) : (armSnapshot s).keyGen = s.keyGen := rfl
@[simp] theorem armSnapshot_keyGeneration (s : State) : (armSnapshot s).keyGeneration = s.keyGeneration := rfl
@[simp] theorem armSnapshot_keyLast (s : State) : (armSnapshot s).keyLast = s.keyLast := rfl
@[simp] theorem armSnapshot_knob (s : State) : (armSnapshot s).knob = s.knob := rfl
@[simp] theorem armSnapshot_fsCandidate (s : State) : (armSnapshot s).fsCandidate = s.fsCandidate := rfl
@[simp] theorem armSnapshot_fsBuf (s : State) : (armSnapshot s).fsBuf = s.fsBuf := rfl
@[simp] theorem armSnapshot_fsSlot (s : State) : (armSnapshot s).fsSlot = s.fsSlot := rfl
@[simp] theorem armSnapshot_fsLast (s : State) : (armSnapshot s).fsLast = s.fsLast := rfl
@[simp] theorem armSnapshot_pc (s : State) : (armSnapshot s).pc = s.pc := rfl
@[simp] theorem armSnapshot_haltReason (s : State) : (armSnapshot s).haltReason = s.haltReason := rfl
@[simp] theorem armSnapshot_snapshotPending (s : State) : (armSnapshot s).snapshotPending = true := rfl
@[simp] theorem armSnapshot_bootProgress (s : State) : (armSnapshot s).bootProgress = s.bootProgress := rfl
@[simp] theorem armSnapshot_rgb (s : State) : (armSnapshot s).rgb = s.rgb := rfl
@[simp] theorem armSnapshot_midiRx (s : State) : (armSnapshot s).midiRx = s.midiRx := rfl
@[simp] theorem armSnapshot_cmdRx (s : State) : (armSnapshot s).cmdRx = s.cmdRx := rfl
@[simp] theorem armSnapshot_out (s : State) : (armSnapshot s).out = s.out := rfl
@[simp] theorem armSnapshot_adcSample (s : State) : (armSnapshot s).adcSample = s.adcSample := rfl
@[simp] theorem armSnapshot_adcBatchComplete (s : State) : (armSnapshot s).adcBatchComplete = s.adcBatchComplete := rfl
@[simp] theorem armSnapshot_pins (s : State) : (armSnapshot s).pins = s.pins := rfl
@[simp] theorem armSnapshot_initOk (s : State) : (armSnapshot s).initOk = s.initOk := rfl
@[simp] theorem armSnapshot_passthroughSink (s : State) : (armSnapshot s).passthroughSink = s.passthroughSink := rfl
@[simp] theorem armSnapshot_display (s : State) : (armSnapshot s).display = s.display := rfl
@[simp] theorem armSnapshot_fired (s : State) : (armSnapshot s).fired = s.fired := rfl
@[simp] theorem armSnapshot_cfg (s : State) : (armSnapshot s).cfg = s.cfg := rfl
@[simp] theorem armSnapshot_sched (s : State) : (armSnapshot s).sched = s.sched := rfl
@[simp] theorem armSnapshot_ret (s : State) : (armSnapshot s).ret = s.ret := rfl
@[simp] theorem armSnapshot_freeCount (s : State) : (armSnapshot s).freeCount = s.freeCount := rfl

/-! ### `clearSnapshot` -/

@[simp] theorem clearSnapshot_ticks (s : State) : (clearSnapshot s).ticks = s.ticks := rfl
@[simp] theorem clearSnapshot_countdown (s : State) : (clearSnapshot s).countdown = s.countdown := rfl
@[simp] theorem clearSnapshot_stopwatch (s : State) : (clearSnapshot s).stopwatch = s.stopwatch := rfl
@[simp] theorem clearSnapshot_tbArmed (s : State) : (clearSnapshot s).tbArmed = s.tbArmed := rfl
@[simp] theorem clearSnapshot_sleeping (s : State) : (clearSnapshot s).sleeping = s.sleeping := rfl
@[simp] theorem clearSnapshot_mode (s : State) : (clearSnapshot s).mode = s.mode := rfl
@[simp] theorem clearSnapshot_pendingEvent (s : State) : (clearSnapshot s).pendingEvent = s.pendingEvent := rfl
@[simp] theorem clearSnapshot_bytesNeeded (s : State) : (clearSnapshot s).bytesNeeded = s.bytesNeeded := rfl
@[simp] theorem clearSnapshot_bytesReceived (s : State) : (clearSnapshot s).bytesReceived = s.bytesReceived := rfl
@[simp] theorem clearSnapshot_lastDataByte (s : State) : (clearSnapshot s).lastDataByte = s.lastDataByte := rfl
@[simp] theorem clearSnapshot_channelFilter (s : State) : (clearSnapshot s).channelFilter = s.channelFilter := rfl
@[simp] theorem clearSnapshot_lastStatusSent (s : State) : (clearSnapshot s).lastStatusSent = s.lastStatusSent := rfl
@[simp] theorem clearSnapshot_sendFullCommands (s : State) : (clearSnapshot s).sendFullCommands = s.sendFullCommands := rfl
@[simp] theorem clearSnapshot_blob (s : State) : (clearSnapshot s).blob = s.blob := rfl
@[simp] theorem clearSnapshot_keyGen (s : State) : (clearSnapshot s).keyGen = s.keyGen := rfl
@[simp] theorem clearSnapshot_keyGeneration (s : State) : (clearSnapshot s).keyGeneration = s.keyGeneration := rfl
@[simp] theorem clearSnapshot_keyLast (s : State) : (clearSnapshot s).keyLast = s.keyLast := rfl
@[simp] theorem clearSnapshot_knob (s : State) : (clearSnapshot s).knob = s.knob := rfl
@[simp] theorem clearSnapshot_fsCandidate (s : State) : (clearSnapshot s).fsCandidate = s.fsCandidate := rfl
@[simp] theorem clearSnapshot_fsBuf (s : State) : (clearSnapshot s).fsBuf = s.fsBuf := rfl
@[simp] theorem clearSnapshot_fsSlot (s : State) : (clearSnapshot s).fsSlot = s.fsSlot := rfl
@[simp] theorem clearSnapshot_fsLast (s : State) : (clearSnapshot s).fsLast = s.fsLast := rfl
@[simp] theorem clearSnapshot_pc (s : State) : (clearSnapshot s).pc = s.pc := rfl
@[simp] theorem clearSnapshot_haltReason (s : State) : (clearSnapshot s).haltReason = s.haltReason := rfl
@[simp] theorem clearSnapshot_snapshotPending (s : State) : (clearSnapshot s).snapshotPending = false := rfl
@[simp] theorem clearSnapshot_bootProgress (s : State) : (clearSnapshot s).bootProgress = s.bootProgress := rfl
@[simp] theorem clearSnapshot_rgb (s : State) : (clearSnapshot s).rgb = s.rgb := rfl
@[simp] theorem clearSnapshot_midiRx (s : State) : (clearSnapshot s).midiRx = s.midiRx := rfl
@[simp] theorem clearSnapshot_cmdRx (s : State) : (clearSnapshot s).cmdRx = s.cmdRx := rfl
@[simp] theorem clearSnapshot_out (s : State) : (clearSnapshot s).out = s.out := rfl
@[simp] theorem clearSnapshot_adcSample (s : State) : (clearSnapshot s).adcSample = s.adcSample := rfl
@[simp] theorem clearSnapshot_adcBatchComplete (s : State) : (clearSnapshot s).adcBatchComplete = s.adcBatchComplete := rfl
@[simp] theorem clearSnapshot_pins (s : State) : (clearSnapshot s).pins = s.pins := rfl
@[simp] theorem clearSnapshot_initOk (s : State) : (clearSnapshot s).initOk = s.initOk := rfl
@[simp] theorem clearSnapshot_passthroughSink (s : State) : (clearSnapshot s).passthroughSink = s.passthroughSink := rfl
@[simp] theorem clearSnapshot_display (s : State) : (clearSnapshot s).display = s.display := rfl
@[simp] theorem clearSnapshot_fired (s : State) : (clearSnapshot s).fired = s.fired := rfl
@[simp] theorem clearSnapshot_cfg (s : State) : (clearSnapshot s).cfg = s.cfg := rfl
@[simp] theorem clearSnapshot_sched (s : State) : (clearSnapshot s).sched = s.sched := rfl
@[simp] theorem clearSnapshot_ret (s : State) : (clearSnapshot s).ret = s.ret := rfl
@[simp] theorem clearSnapshot_freeCount (s : State) : (clearSnapshot s).freeCount = s.freeCount := rfl

/-! ### `setBatchComplete` -/

@[simp] theorem setBatchComplete_ticks (s : State) : (setBatchComplete s).ticks = s.ticks := rfl
@[simp] theorem setBatchComplete_countdown (s : State) : (setBatchComplete s).countdown = s.countdown := rfl
@[simp] theorem setBatchComplete_stopwatch (s : State) : (setBatchComplete s).stopwatch = s.stopwatch := rfl
@[simp] theorem setBatchComplete_tbArmed (s : State) : (setBatchComplete s).tbArmed = s.tbArmed := rfl
@[simp] theorem setBatchComplete_sleeping (s : State) : (setBatchComplete s).sleeping = s.sleeping := rfl
@[simp] theorem setBatchComplete_mode (s : State) : (setBatchComplete s).mode = s.mode := rfl
@[simp] theorem setBatchComplete_pendingEvent (s : State) : (setBatchComplete s).pendingEvent = s.pendingEvent := rfl
@[simp] theorem setBatchComplete_bytesNeeded (s : State) : (setBatchComplete s).bytesNeeded = s.bytesNeeded := rfl
@[simp] theorem setBatchComplete_bytesReceived (s : State) : (setBatchComplete s).bytesReceived = s.bytesReceived := rfl
@[simp] theorem setBatchComplete_lastDataByte (s : State) : (setBatchComplete s).lastDataByte = s.lastDataByte := rfl
@[simp] theorem setBatchComplete_channelFilter (s : State) : (setBatchComplete s).channelFilter = s.channelFilter := rfl
@[simp] theorem setBatchComplete_lastStatusSent (s : State) : (setBatchComplete s).lastStatusSent = s.lastStatusSent := rfl
@[simp] theorem setBatchComplete_sendFullCommands (s : State) : (setBatchComplete s).sendFullCommands = s.sendFullCommands := rfl
@[simp] theorem setBatchComplete_blob (s : State) : (setBatchComplete s).blob = s.blob := rfl
@[simp] theorem setBatchComplete_keyGen (s : State) : (setBatchComplete s).keyGen = s.keyGen := rfl
@[simp] theorem setBatchComplete_keyGeneration (s : State) : (setBatchComplete s).keyGeneration = s.keyGeneration := rfl
@[simp] theorem setBatchComplete_keyLast (s : State) : (setBatchComplete s).keyLast = s.keyLast := rfl
@[simp] theorem setBatchComplete_knob (s : State) : (setBatchComplete s).knob = s.knob := rfl
@[simp] theorem setBatchComplete_fsCandidate (s : State) : (setBatchComplete s).fsCandidate = s.fsCandidate := rfl
@[simp] theorem setBatchComplete_fsBuf (s : State) : (setBatchComplete s).fsBuf = s.fsBuf := rfl
@[simp] theorem setBatchComplete_fsSlot (s : State) : (setBatchComplete s).fsSlot = s.fsSlot := rfl
@[simp] theorem setBatchComplete_fsLast (s : State) : (setBatchComplete s).fsLast = s.fsLast := rfl
@[simp] theorem setBatchComplete_pc (s : State) : (setBatchComplete s).pc = s.pc := rfl
@[simp] theorem setBatchComplete_haltReason (s : State) : (setBatchComplete s).haltReason = s.haltReason := rfl
@[simp] theorem setBatchComplete_snapshotPending (s : State) : (setBatchComplete s).snapshotPending = s.snapshotPending := rfl
@[simp] theorem setBatchComplete_bootProgress (s : State) : (setBatchComplete s).bootProgress = s.bootProgress := rfl
@[simp] theorem setBatchComplete_rgb (s : State) : (setBatchComplete s).rgb = s.rgb := rfl
@[simp] theorem setBatchComplete_midiRx (s : State) : (setBatchComplete s).midiRx = s.midiRx := rfl
@[simp] theorem setBatchComplete_cmdRx (s : State) : (setBatchComplete s).cmdRx = s.cmdRx := rfl
@[simp] theorem setBatchComplete_out (s : State) : (setBatchComplete s).out = s.out := rfl
@[simp] theorem setBatchComplete_adcSample (s : State) : (setBatchComplete s).adcSample = s.adcSample := rfl
@[simp] theorem setBatchComplete_adcBatchComplete (s : State) : (setBatchComplete s).adcBatchComplete = true := rfl
@[simp] theorem setBatchComplete_pins (s : State) : (setBatchComplete s).pins = s.pins := rfl
@[simp] theorem setBatchComplete_initOk (s : State) : (setBatchComplete s).initOk = s.initOk := rfl
@[simp] theorem setBatchComplete_passthroughSink (s : State) : (setBatchComplete s).passthroughSink = s.passthroughSink := rfl
@[simp] theorem setBatchComplete_display (s : State) : (setBatchComplete s).display = s.display := rfl
@[simp] theorem setBatchComplete_fired (s : State) : (setBatchComplete s).fired = s.fired := rfl
@[simp] theorem setBatchComplete_cfg (s : State) : (setBatchComplete s).cfg = s.cfg := rfl
@[simp] theorem setBatchComplete_sched (s : State) : (setBatchComplete s).sched = s.sched := rfl
@[simp] theorem setBatchComplete_ret (s : State) : (setBatchComplete s).ret = s.ret := rfl
@[simp] theorem setBatchComplete_freeCount (s : State) : (setBatchComplete s).freeCount = s.freeCount := rfl

/-! ### `clearBatchComplete` -/

@[simp] theorem clearBatchComplete_ticks (s : State) : (clearBatchComplete s).ticks = s.ticks := rfl
@[simp] theorem clearBatchComplete_countdown (s : State) : (clearBatchComplete s).countdown = s.countdown := rfl
@[simp] theorem clearBatchComplete_stopwatch (s : State) : (clearBatchComplete s).stopwatch = s.stopwatch := rfl
@[simp] theorem clearBatchComplete_tbArmed (s : State) : (clearBatchComplete s).tbArmed = s.tbArmed := rfl
@[simp] theorem clearBatchComplete_sleeping (s : State) : (clearBatchComplete s).sleeping = s.sleeping := rfl
@[simp] theorem clearBatchComplete_mode (s : State) : (clearBatchComplete s).mode = s.mode := rfl
@[simp] theorem clearBatchComplete_pendingEvent (s : State) : (clearBatchComplete s).pendingEvent = s.pendingEvent := rfl
@[simp] theorem clearBatchComplete_bytesNeeded (s : State) : (clearBatchComplete s).bytesNeeded = s.bytesNeeded := rfl
@[simp] theorem clearBatchComplete_bytesReceived (s : State) : (clearBatchComplete s).bytesReceived = s.bytesReceived := rfl
@[simp] theorem clearBatchComplete_lastDataByte (s : State) : (clearBatchComplete s).lastDataByte = s.lastDataByte := rfl
@[simp] theorem clearBatchComplete_channelFilter (s : State) : (clearBatchComplete s).channelFilter = s.channelFilter := rfl
@[simp] theorem clearBatchComplete_lastStatusSent (s : State) : (clearBatchComplete s).lastStatusSent = s.lastStatusSent := rfl
@[simp] theorem clearBatchComplete_sendFullCommands (s : State) : (clearBatchComplete s).sendFullCommands = s.sendFullCommands := rfl
@[simp] theorem clearBatchComplete_blob (s : State) : (clearBatchComplete s).blob = s.blob := rfl
@[simp] theorem clearBatchComplete_keyGen (s : State) : (clearBatchComplete s).keyGen = s.keyGen := rfl
@[simp] theorem clearBatchComplete_keyGeneration (s : State) : (clearBatchComplete s).keyGeneration = s.keyGeneration := rfl
@[simp] theorem clearBatchComplete_keyLast (s : State) : (clearBatchComplete s).keyLast = s.keyLast := rfl
@[simp] theorem clearBatchComplete_knob (s : State) : (clearBatchComplete s).knob = s.knob := rfl
@[simp] theorem clearBatchComplete_fsCandidate (s : State) : (clearBatchComplete s).fsCandidate = s.fsCandidate := rfl
@[simp] theorem clearBatchComplete_fsBuf (s : State) : (clearBatchComplete s).fsBuf = s.fsBuf := rfl
@[simp] theorem clearBatchComplete_fsSlot (s : State) : (clearBatchComplete s).fsSlot = s.fsSlot := rfl
@[simp] theorem clearBatchComplete_fsLast (s : State) : (clearBatchComplete s).fsLast = s.fsLast := rfl
@[simp] theorem clearBatchComplete_pc (s : State) : (clearBatchComplete s).pc = s.pc := rfl
@[simp] theorem clearBatchComplete_haltReason (s : State) : (clearBatchComplete s).haltReason = s.haltReason := rfl
@[simp] theorem clearBatchComplete_snapshotPending (s : State) : (clearBatchComplete s).snapshotPending = s.snapshotPending := rfl
@[simp] theorem clearBatchComplete_bootProgress (s : State) : (clearBatchComplete s).bootProgress = s.bootProgress := rfl
@[simp] theorem clearBatchComplete_rgb (s : State) : (clearBatchComplete s).rgb = s.rgb := rfl
@[simp] theorem clearBatchComplete_midiRx (s : State) : (clearBatchComplete s).midiRx = s.midiRx := rfl
@[simp] theorem clearBatchComplete_cmdRx (s : State) : (clearBatchComplete s).cmdRx = s.cmdRx := rfl
@[simp] theorem clearBatchComplete_out (s : State) : (clearBatchComplete s).out = s.out := rfl
@[simp] theorem clearBatchComplete_adcSample (s : State) : (clearBatchComplete s).adcSample = s.adcSample := rfl
@[simp] theorem clearBatchComplete_adcBatchComplete (s : State) : (clearBatchComplete s).adcBatchComplete = false := rfl
@[simp] theorem clearBatchComplete_pins (s : State) : (clearBatchComplete s).pins = s.pins := rfl
@[simp] theorem clearBatchComplete_initOk (s : State) : (clearBatchComplete s).initOk = s.initOk := rfl
@[simp] theorem clearBatchComplete_passthroughSink (s : State) : (clearBatchComplete s).passthroughSink = s.passthroughSink := rfl
@[simp] theorem clearBatchComplete_display (s : State) : (clearBatchComplete s).display = s.display := rfl
@[simp] theorem clearBatchComplete_fired (s : State) : (clearBatchComplete s).fired = s.fired := rfl
@[simp] theorem clearBatchComplete_cfg (s : State) : (clearBatchComplete s).cfg = s.cfg := rfl
@[simp] theorem clearBatchComplete_sched (s : State) : (clearBatchComplete s).sched = s.sched := rfl
@[simp] theorem clearBatchComplete_ret (s : State) : (clearBatchComplete s).ret = s.ret := rfl
@[simp] theorem clearBatchComplete_freeCount (s : State) : (clearBatchComplete s).freeCount = s.freeCount := rfl

/-! ### `swReset` -/

@[simp] theorem swReset_ticks (s : State) : (swReset s).ticks = s.ticks := rfl
@[simp] theorem swReset_countdown (s : State) : (swReset s).countdown = s.countdown := rfl
@[simp] theorem swReset_stopwatch (s : State) : (swReset s).stopwatch = 0 := rfl
@[simp] theorem swReset_tbArmed (s : State) : (swReset s).tbArmed = s.tbArmed := rfl
@[simp] theorem swReset_sleeping (s : State) : (swReset s).sleeping = s.sleeping := rfl
@[simp] theorem swReset_mode (s : State) : (swReset s).mode = s.mode := rfl
@[simp] theorem swReset_pendingEvent (s : State) : (swReset s).pendingEvent = s.pendingEvent := rfl
@[simp] theorem swReset_bytesNeeded (s : State) : (swReset s).bytesNeeded = s.bytesNeeded := rfl
@[simp] theorem swReset_bytesReceived (s : State) : (swReset s).bytesReceived = s.bytesReceived := rfl
@[simp] theorem swReset_lastDataByte (s : State) : (swReset s).lastDataByte = s.lastDataByte := rfl
@[simp] theorem swReset_channelFilter (s : State) : (swReset s).channelFilter = s.channelFilter := rfl
@[simp] theorem swReset_lastStatusSent (s : State) : (swReset s).lastStatusSent = s.lastStatusSent := rfl
@[simp] theorem swReset_sendFullCommands (s : State) : (swReset s).sendFullCommands = s.sendFullCommands := rfl
@[simp] theorem swReset_blob (s : State) : (swReset s).blob = s.blob := rfl
@[simp] theorem swReset_keyGen (s : State) : (swReset s).keyGen = s.keyGen := rfl
@[simp] theorem swReset_keyGeneration (s : State) : (swReset s).keyGeneration = s.keyGeneration := rfl
@[simp] theorem swReset_keyLast (s : State) : (swReset s).keyLast = s.keyLast := rfl
@[simp] theorem swReset_knob (s : State) : (swReset s).knob = s.knob := rfl
@[simp] theorem swReset_fsCandidate (s : State) : (swReset s).fsCandidate = s.fsCandidate := rfl
@[simp] theorem swReset_fsBuf (s : State) : (swReset s).fsBuf = s.fsBuf := rfl
@[simp] theorem swReset_fsSlot (s : State) : (swReset s).fsSlot = s.fsSlot := rfl
@[simp] theorem swReset_fsLast (s : State) : (swReset s).fsLast = s.fsLast := rfl
@[simp] theorem swReset_pc (s : State) : (swReset s).pc = s.pc := rfl
@[simp] theorem swReset_haltReason (s : State) : (swReset s).haltReason = s.haltReason := rfl
@[simp] theorem swReset_snapshotPending (s : State) : (swReset s).snapshotPending = s.snapshotPending := rfl
@[simp] theorem swReset_bootProgress (s : State) : (swReset s).bootProgress = s.bootProgress := rfl
@[simp] theorem swReset_rgb (s : State) : (swReset s).rgb = s.rgb := rfl
@[simp] theorem swReset_midiRx (s : State) : (swReset s).midiRx = s.midiRx := rfl
@[simp] theorem swReset_cmdRx (s : State) : (swReset s).cmdRx = s.cmdRx := rfl
@[simp] theorem swReset_out (s : State) : (swReset s).out = s.out := rfl
@[simp] theorem swReset_adcSample (s : State) : (swReset s).adcSample = s.adcSample := rfl
@[simp] theorem swReset_adcBatchComplete (s : State) : (swReset s).adcBatchComplete = s.adcBatchComplete := rfl
@[simp] theorem swReset_pins (s : State) : (swReset s).pins = s.pins := rfl
@[simp] theorem swReset_initOk (s : State) : (swReset s).initOk = s.initOk := rfl
@[simp] theorem swReset_passthroughSink (s : State) : (swReset s).passthroughSink = s.passthroughSink := rfl
@[simp] theorem swReset_display (s : State) : (swReset s).display = s.display := rfl
@[simp] theorem swReset_fired (s : State) : (swReset s).fired = s.fired := rfl
@[simp] theorem swReset_cfg (s : State) : (swReset s).cfg = s.cfg := rfl
@[simp] theorem swReset_sched (s : State) : (swReset s).sched = s.sched := rfl
@[simp] theorem swReset_ret (s : State) : (swReset s).ret = s.ret := rfl
@[simp] theorem swReset_freeCount (s : State) : (swReset s).freeCount = s.freeCount := rfl

/-! ### `toIdle` -/

@[simp] theorem toIdle_ticks (s : State) : (toIdle s).ticks = s.ticks := rfl
@[simp] theorem toIdle_countdown (s : State) : (toIdle s).countdown = s.countdown := rfl
@[simp] theorem toIdle_stopwatch (s : State) : (toIdle s).stopwatch = s.stopwatch := rfl
@[simp] theorem toIdle_tbArmed (s : State) : (toIdle s).tbArmed = s.tbArmed := rfl
@[simp] theorem toIdle_sleeping (s : State) : (toIdle s).sleeping = s.sleeping := rfl
@[simp] theorem toIdle_mode (s : State) : (toIdle s).mode = s.mode := rfl
@[simp] theorem toIdle_pendingEvent (s : State) : (toIdle s).pendingEvent = none := rfl
@[simp] theorem toIdle_bytesNeeded (s : State) : (toIdle s).bytesNeeded = 0 := rfl
@[simp] theorem toIdle_bytesReceived (s : State) : (toIdle s).bytesReceived = 0 := rfl
@[simp] theorem toIdle_lastDataByte (s : State) : (toIdle s).lastDataByte = s.lastDataByte := rfl
@[simp] theorem toIdle_channelFilter (s : State) : (toIdle s).channelFilter = s.channelFilter := rfl
@[simp] theorem toIdle_lastStatusSent (s : State) : (toIdle s).lastStatusSent = s.lastStatusSent := rfl
@[simp] theorem toIdle_sendFullCommands (s : State) : (toIdle s).sendFullCommands = s.sendFullCommands := rfl
@[simp] theorem toIdle_blob (s : State) : (toIdle s).blob = s.blob := rfl
@[simp] theorem toIdle_keyGen (s : State) : (toIdle s).keyGen = s.keyGen := rfl
@[simp] theorem toIdle_keyGeneration (s : State) : (toIdle s).keyGeneration = s.keyGeneration := rfl
@[simp] theorem toIdle_keyLast (s : State) : (toIdle s).keyLast = s.keyLast := rfl
@[simp] theorem toIdle_knob (s : State) : (toIdle s).knob = s.knob := rfl
@[simp] theorem toIdle_fsCandidate (s : State) : (toIdle s).fsCandidate = s.fsCandidate := rfl
@[simp] theorem toIdle_fsBuf (s : State) : (toIdle s).fsBuf = s.fsBuf := rfl
@[simp] theorem toIdle_fsSlot (s : State) : (toIdle s).fsSlot = s.fsSlot := rfl
@[simp] theorem toIdle_fsLast (s : State) : (toIdle s).fsLast = s.fsLast := rfl
@[simp] theorem toIdle_pc (s : State) : (toIdle s).pc = s.pc := rfl
@[simp] theorem toIdle_haltReason (s : State) : (toIdle s).haltReason = s.haltReason := rfl
@[simp] theorem toIdle_snapshotPending (s : State) : (toIdle s).snapshotPending = s.snapshotPending := rfl
@[simp] theorem toIdle_bootProgress (s : State) : (toIdle s).bootProgress = s.bootProgress := rfl
@[simp] theorem toIdle_rgb (s : State) : (toIdle s).rgb = s.rgb := rfl
@[simp] theorem toIdle_midiRx (s : State) : (toIdle s).midiRx = s.midiRx := rfl
@[simp] theorem toIdle_cmdRx (s : State) : (toIdle s).cmdRx = s.cmdRx := rfl
@[simp] theorem toIdle_out (s : State) : (toIdle s).out = s.out := rfl
@[simp] theorem toIdle_adcSample (s : State) : (toIdle s).adcSample = s.adcSample := rfl
@[simp] theorem toIdle_adcBatchComplete (s : State) : (toIdle s).adcBatchComplete = s.adcBatchComplete := rfl
@[simp] theorem toIdle_pins (s : State) : (toIdle s).pins = s.pins := rfl
@[simp] theorem toIdle_initOk (s : State) : (toIdle s).initOk = s.initOk := rfl
@[simp] theorem toIdle_passthroughSink (s : State) : (toIdle s).passthroughSink = s.passthroughSink := rfl
@[simp] theorem toIdle_display (s : State) : (toIdle s).display = s.display := rfl
@[simp] theorem toIdle_fired (s : State) : (toIdle s).fired = s.fired := rfl
@[simp] theorem toIdle_cfg (s : State) : (toIdle s).cfg = s.cfg := rfl
@[simp] theorem toIdle_sched (s : State) : (toIdle s).sched = s.sched := rfl
@[simp] theorem toIdle_ret (s : State) : (toIdle s).ret = s.ret := rfl
@[simp] theorem toIdle_freeCount (s : State) : (toIdle s).freeCount = s.freeCount := rfl

/-! ### `awaitArgs` -/

@[simp] theorem awaitArgs_ticks (b : Byte) (n : Nat) (s : State) : (awaitArgs b n s).ticks = s.ticks := rfl
@[simp] theorem awaitArgs_countdown (b : Byte) (n : Nat) (s : State) : (awaitArgs b n s).countdown = s.countdown := rfl
@[simp] theorem awaitArgs_stopwatch (b : Byte) (n : Nat) (s : State) : (awaitArgs b n s).stopwatch = s.stopwatch := rfl
@[simp] theorem awaitArgs_tbArmed (b : Byte) (n : Nat) (s : State) : (awaitArgs b n s).tbArmed = s.tbArmed := rfl
@[simp] theorem awaitArgs_sleeping (b : Byte) (n : Nat) (s : State) : (awaitArgs b n s).sleeping = s.sleeping := rfl
@[simp] theorem awaitArgs_mode (b : Byte) (n : Nat) (s : State) : (awaitArgs b n s).mode = s.mode := rfl
@[simp] theorem awaitArgs_pendingEvent (b : Byte) (n : Nat) (s : State) : (awaitArgs b n s).pendingEvent = some b := rfl
@[simp] theorem awaitArgs_bytesNeeded (b : Byte) (n : Nat) (s : State) : (awaitArgs b n s).bytesNeeded = n := rfl
@[simp] theorem awaitArgs_bytesReceived (b : Byte) (n : Nat) (s : State) : (awaitArgs b n s).bytesReceived = 0 := rfl
@[simp] theorem awaitArgs_lastDataByte (b : Byte) (n : Nat) (s : State) : (awaitArgs b n s).lastDataByte = s.lastDataByte := rfl
@[simp] theorem awaitArgs_channelFilter (b : Byte) (n : Nat) (s : State) : (awaitArgs b n s).channelFilter = s.channelFilter := rfl
@[simp] theorem awaitArgs_lastStatusSent (b : Byte) (n : Nat) (s : State) : (awaitArgs b n s).lastStatusSent = s.lastStatusSent := rfl
@[simp] theorem awaitArgs_sendFullCommands (b : Byte) (n : Nat) (s : State) : (awaitArgs b n s).sendFullCommands = s.sendFullCommands := rfl
@[simp] theorem awaitArgs_blob (b : Byte) (n : Nat) (s : State) : (awaitArgs b n s).blob = s.blob := rfl
@[simp] theorem awaitArgs_keyGen (b : Byte) (n : Nat) (s : State) : (awaitArgs b n s).keyGen = s.keyGen := rfl
@[simp] theorem awaitArgs_keyGeneration (b : Byte) (n : Nat) (s : State) : (awaitArgs b n s).keyGeneration = s.keyGeneration := rfl
@[simp] theorem awaitArgs_keyLast (b : Byte) (n : Nat) (s : State) : (awaitArgs b n s).keyLast = s.keyLast := rfl
@[simp] theorem awaitArgs_knob (b : Byte) (n : Nat) (s : State) : (awaitArgs b n s).knob = s.knob := rfl
@[simp] theorem awaitArgs_fsCandidate (b : Byte) (n : Nat) (s : State) : (awaitArgs b n s).fsCandidate = s.fsCandidate := rfl
@[simp] theorem awaitArgs_fsBuf (b : Byte) (n : Nat) (s : State) : (awaitArgs b n s).fsBuf = s.fsBuf := rfl
@[simp] theorem awaitArgs_fsSlot (b : Byte) (n : Nat) (s : State) : (awaitArgs b n s).fsSlot = s.fsSlot := rfl
@[simp] theorem awaitArgs_fsLast (b : Byte) (n : Nat) (s : State) : (awaitArgs b n s).fsLast = s.fsLast := rfl
@[simp] theorem awaitArgs_pc (b : Byte) (n : Nat) (s : State) : (awaitArgs b n s).pc = s.pc := rfl
@[simp] theorem awaitArgs_haltReason (b : Byte) (n : Nat) (s : State) : (awaitArgs b n s).haltReason = s.haltReason := rfl
@[simp] theorem awaitArgs_snapshotPending (b : Byte) (n : Nat) (s : State) : (awaitArgs b n s).snapshotPending = s.snapshotPending := rfl
@[simp] theorem awaitArgs_bootProgress (b : Byte) (n : Nat) (s : State) : (awaitArgs b n s).bootProgress = s.bootProgress := rfl
@[simp] theorem awaitArgs_rgb (b : Byte) (n : Nat) (s : State) : (awaitArgs b n s).rgb = s.rgb := rfl
@[simp] theorem awaitArgs_midiRx (b : Byte) (n : Nat) (s : State) : (awaitArgs b n s).midiRx = s.midiRx := rfl
@[simp] theorem awaitArgs_cmdRx (b : Byte) (n : Nat) (s : State) : (awaitArgs b n s).cmdRx = s.cmdRx := rfl
@[simp] theorem awaitArgs_out (b : Byte) (n : Nat) (s : State) : (awaitArgs b n s).out = s.out := rfl
@[simp] theorem awaitArgs_adcSample (b : Byte) (n : Nat) (s : State) : (awaitArgs b n s).adcSample = s.adcSample := rfl
@[simp] theorem awaitArgs_adcBatchComplete (b : Byte) (n : Nat) (s : State) : (awaitArgs b n s).adcBatchComplete = s.adcBatchComplete := rfl
@[simp] theorem awaitArgs_pins (b : Byte) (n : Nat) (s : State) : (awaitArgs b n s).pins = s.pins := rfl
@[simp] theorem awaitArgs_initOk (b : Byte) (n : Nat) (s : State) : (awaitArgs b n s).initOk = s.initOk := rfl
@[simp] theorem awaitArgs_passthroughSink (b : Byte) (n : Nat) (s : State) : (awaitArgs b n s).passthroughSink = s.passthroughSink := rfl
@[simp] theorem awaitArgs_display (b : Byte) (n : Nat) (s : State) : (awaitArgs b n s).display = s.display := rfl
@[simp] theorem awaitArgs_fired (b : Byte) (n : Nat) (s : State) : (awaitArgs b n s).fired = s.fired := rfl
@[simp] theorem awaitArgs_cfg (b : Byte) (n : Nat) (s : State) : (awaitArgs b n s).cfg = s.cfg := rfl
@[simp] theorem awaitArgs_sched (b : Byte) (n : Nat) (s : State) : (awaitArgs b n s).sched = s.sched := rfl
@[simp] theorem awaitArgs_ret (b : Byte) (n : Nat) (s : State) : (awaitArgs b n s).ret = s.ret := rfl
@[simp] theorem awaitArgs_freeCount (b : Byte) (n : Nat) (s : State) : (awaitArgs b n s).freeCount = s.freeCount := rfl

/-! ### `setController` -/

@[simp] theorem setController_ticks (cc value : Byte) (s : State) : (setController cc value s).ticks = s.ticks := rfl
@[simp] theorem setController_countdown (cc value : Byte) (s : State) : (setController cc value s).countdown = s.countdown := rfl
@[simp] theorem setController_stopwatch (cc value : Byte) (s : State) : (setController cc value s).stopwatch = s.stopwatch := rfl
@[simp] theorem setController_tbArmed (cc value : Byte) (s : State) : (setController cc value s).tbArmed = s.tbArmed := rfl
@[simp] theorem setController_sleeping (cc value : Byte) (s : State) : (setController cc value s).sleeping = s.sleeping := rfl
@[simp] theorem setController_mode (cc value : Byte) (s : State) : (setController cc value s).mode = s.mode := rfl
@[simp] theorem setController_pendingEvent (cc value : Byte) (s : State) : (setController cc value s).pendingEvent = s.pendingEvent := rfl
@[simp] theorem setController_bytesNeeded (cc value : Byte) (s : State) : (setController cc value s).bytesNeeded = s.bytesNeeded := rfl
@[simp] theorem setController_bytesReceived (cc value : Byte) (s : State) : (setController cc value s).bytesReceived = s.bytesReceived := rfl
@[simp] theorem setController_lastDataByte (cc value : Byte) (s : State) : (setController cc value s).lastDataByte = s.lastDataByte := rfl
@[simp] theorem setController_channelFilter (cc value : Byte) (s : State) : (setController cc value s).channelFilter = s.channelFilter := rfl
@[simp] theorem setController_lastStatusSent (cc value : Byte) (s : State) : (setController cc value s).lastStatusSent = s.lastStatusSent := rfl
@[simp] theorem setController_sendFullCommands (cc value : Byte) (s : State) : (setController cc value s).sendFullCommands = s.sendFullCommands := rfl
@[simp] theorem setController_blob (cc value : Byte) (s : State) : (setController cc value s).blob = writeSlots cc value s.cfg.ccSlot.toList controllerBase s.blob := rfl
@[simp] theorem setController_keyGen (cc value : Byte) (s : State) : (setController cc value s).keyGen = s.keyGen := rfl
@[simp] theorem setController_keyGeneration (cc value : Byte) (s : State) : (setController cc value s).keyGeneration = s.keyGeneration := rfl
@[simp] theorem setController_keyLast (cc value : Byte) (s : State) : (setController cc value s).keyLast = s.keyLast := rfl
@[simp] theorem setController_knob (cc value : Byte) (s : State) : (setController cc value s).knob = s.knob := rfl
@[simp] theorem setController_fsCandidate (cc value : Byte) (s : State) : (setController cc value s).fsCandidate = s.fsCandidate := rfl
@[simp] theorem setController_fsBuf (cc value : Byte) (s : State) : (setController cc value s).fsBuf = s.fsBuf := rfl
@[simp] theorem setController_fsSlot (cc value : Byte) (s : State) : (setController cc value s).fsSlot = s.fsSlot := rfl
@[simp] theorem setController_fsLast (cc value : Byte) (s : State) : (setController cc value s).fsLast = s.fsLast := rfl
@[simp] theorem setController_pc (cc value : Byte) (s : State) : (setController cc value s).pc = s.pc := rfl
@[simp] theorem setController_haltReason (cc value : Byte) (s : State) : (setController cc value s).haltReason = s.haltReason := rfl
@[simp] theorem setController_snapshotPending (cc value : Byte) (s : State) : (setController cc value s).snapshotPending = s.snapshotPending := rfl
@[simp] theorem setController_bootProgress (cc value : Byte) (s : State) : (setController cc value s).bootProgress = s.bootProgress := rfl
@[simp] theorem setController_rgb (cc value : Byte) (s : State) : (setController cc value s).rgb = s.rgb := rfl
@[simp] theorem setController_midiRx (cc value : Byte) (s : State) : (setController cc value s).midiRx = s.midiRx := rfl
@[simp] theorem setController_cmdRx (cc value : Byte) (s : State) : (setController cc value s).cmdRx = s.cmdRx := rfl
@[simp] theorem setController_out (cc value : Byte) (s : State) : (setController cc value s).out = s.out := rfl
@[simp] theorem setController_adcSample (cc value : Byte) (s : State) : (setController cc value s).adcSample = s.adcSample := rfl
@[simp] theorem setController_adcBatchComplete (cc value : Byte) (s : State) : (setController cc value s).adcBatchComplete = s.adcBatchComplete := rfl
@[simp] theorem setController_pins (cc value : Byte) (s : State) : (setController cc value s).pins = s.pins := rfl
@[simp] theorem setController_initOk (cc value : Byte) (s : State) : (setController cc value s).initOk = s.initOk := rfl
@[simp] theorem setController_passthroughSink (cc value : Byte) (s : State) : (setController cc value s).passthroughSink = s.passthroughSink := rfl
@[simp] theorem setController_display (cc value : Byte) (s : State) : (setController cc value s).display = s.display := rfl
@[simp] theorem setController_fired (cc value : Byte) (s : State) : (setController cc value s).fired = s.fired := rfl
@[simp] theorem setController_cfg (cc value : Byte) (s : State) : (setController cc value s).cfg = s.cfg := rfl
@[simp] theorem setController_sched (cc value : Byte) (s : State) : (setController cc value s).sched = s.sched := rfl
@[simp] theorem setController_ret (cc value : Byte) (s : State) : (setController cc value s).ret = s.ret := rfl
@[simp] theorem setController_freeCount (cc value : Byte) (s : State) : (setController cc value s).freeCount = s.freeCount := rfl

/-! ### `tickCounters` -/

@[simp] theorem tickCounters_ticks (s : State) : (tickCounters s).ticks = (s.ticks + 1) % 2 ^ s.cfg.wTicks := rfl
@[simp] theorem tickCounters_countdown (s : State) : (tickCounters s).countdown = if s.countdown ≠ 0 then s.countdown - 1 else s.countdown := rfl
@[simp] theorem tickCounters_stopwatch (s : State) : (tickCounters s).stopwatch = (s.stopwatch + 1) % 2 ^ s.cfg.wStopwatch := rfl
@[simp] theorem tickCounters_tbArmed (s : State) : (tickCounters s).tbArmed = s.tbArmed := rfl
@[simp] theorem tickCounters_sleeping (s : State) : (tickCounters s).sleeping = s.sleeping := rfl
@[simp] theorem tickCounters_mode (s : State) : (tickCounters s).mode = s.mode := rfl
@[simp] theorem tickCounters_pendingEvent (s : State) : (tickCounters s).pendingEvent = s.pendingEvent := rfl
@[simp] theorem tickCounters_bytesNeeded (s : State) : (tickCounters s).bytesNeeded = s.bytesNeeded := rfl
@[simp] theorem tickCounters_bytesReceived (s : State) : (tickCounters s).bytesReceived = s.bytesReceived := rfl
@[simp] theorem tickCounters_lastDataByte (s : State) : (tickCounters s).lastDataByte = s.lastDataByte := rfl
@[simp] theorem tickCounters_channelFilter (s : State) : (tickCounters s).channelFilter = s.channelFilter := rfl
@[simp] theorem tickCounters_lastStatusSent (s : State) : (tickCounters s).lastStatusSent = s.lastStatusSent := rfl
@[simp] theorem tickCounters_sendFullCommands (s : State) : (tickCounters s).sendFullCommands = s.sendFullCommands := rfl
@[simp] theorem tickCounters_blob (s : State) : (tickCounters s).blob = s.blob := rfl
@[simp] theorem tickCounters_keyGen (s : State) : (tickCounters s).keyGen = s.keyGen := rfl
@[simp] theorem tickCounters_keyGeneration (s : State) : (tickCounters s).keyGeneration = s.keyGeneration := rfl
@[simp] theorem tickCounters_keyLast (s : State) : (tickCounters s).keyLast = s.keyLast := rfl
@[simp] theorem tickCounters_knob (s : State) : (tickCounters s).knob = s.knob := rfl
@[simp] theorem tickCounters_fsCandidate (s : State) : (tickCounters s).fsCandidate = s.fsCandidate := rfl
@[simp] theorem tickCounters_fsBuf (s : State) : (tickCounters s).fsBuf = s.fsBuf := rfl
@[simp] theorem tickCounters_fsSlot (s : State) : (tickCounters s).fsSlot = s.fsSlot := rfl
@[simp] theorem tickCounters_fsLast (s : State) : (tickCounters s).fsLast = s.fsLast := rfl
@[simp] theorem tickCounters_pc (s : State) : (tickCounters s).pc = s.pc := rfl
@[simp] theorem tickCounters_haltReason (s : State) : (tickCounters s).haltReason = s.haltReason := rfl
@[simp] theorem tickCounters_snapshotPending (s : State) : (tickCounters s).snapshotPending = s.snapshotPending := rfl
@[simp] theorem tickCounters_bootProgress (s : State) : (tickCounters s).bootProgress = s.bootProgress := rfl
@[simp] theorem tickCounters_rgb (s : State) : (tickCounters s).rgb = s.rgb := rfl
@[simp] theorem tickCounters_midiRx (s : State) : (tickCounters s).midiRx = s.midiRx := rfl
@[simp] theorem tickCounters_cmdRx (s : State) : (tickCounters s).cmdRx = s.cmdRx := rfl
@[simp] theorem tickCounters_out (s : State) : (tickCounters s).out = s.out := rfl
@[simp] theorem tickCounters_adcSample (s : State) : (tickCounters s).adcSample = s.adcSample := rfl
@[simp] theorem tickCounters_adcBatchComplete (s : State) : (tickCounters s).adcBatchComplete = s.adcBatchComplete := rfl
@[simp] theorem tickCounters_pins (s : State) : (tickCounters s).pins = s.pins := rfl
@[simp] theorem tickCounters_initOk (s : State) : (tickCounters s).initOk = s.initOk := rfl
@[simp] theorem tickCounters_passthroughSink (s : State) : (tickCounters s).passthroughSink = s.passthroughSink := rfl
@[simp] theorem tickCounters_display (s : State) : (tickCounters s).display = s.display := rfl
@[simp] theorem tickCounters_fired (s : State) : (tickCounters s).fired = s.fired := rfl
@[simp] theorem tickCounters_cfg (s : State) : (tickCounters s).cfg = s.cfg := rfl
@[simp] theorem tickCounters_sched (s : State) : (tickCounters s).sched = s.sched := rfl
@[simp] theorem tickCounters_ret (s : State) : (tickCounters s).ret = s.ret := rfl
@[simp] theorem tickCounters_freeCount (s : State) : (tickCounters s).freeCount = s.freeCount := rfl

end Sys2Proof.Machine
end

