-- ==== Sys2Proof/Laws/Ops.lean ====
section
/-! SUPPORT. One lemma for each shared operation, saying once everything it can do. -/

namespace Sys2Proof.Machine

/-! ### Sequencing -/

@[simp] theorem andThen_next (s : State) (f : State → Host.Outcome State Fault Refusal) :
    andThen (.next s) f = f s := rfl

@[simp] theorem andThen_fault (r : Fault) (f : State → Host.Outcome State Fault Refusal) :
    andThen (.fault r) f = .fault r := rfl

@[simp] theorem andThen_refused (r : Refusal) (f : State → Host.Outcome State Fault Refusal) :
    andThen (.refused r) f = .refused r := rfl

/-- A sequence gives a next state exactly when both parts do. -/
theorem andThen_eq_next {o : Host.Outcome State Fault Refusal}
    {f : State → Host.Outcome State Fault Refusal} {t : State} :
    andThen o f = .next t ↔ ∃ u, o = .next u ∧ f u = .next t := by
  cases o <;> simp

/-! ### The blob -/

@[simp] theorem blobRead_blobWrite (i : Nat) (v : Byte) (s : State) (a : Nat) :
    blobRead (blobWrite i v s) a = if a = i then v else blobRead s a := by
  simp [blobRead]

/-- Two states with the same cells read alike. -/
theorem blobRead_congr {s t : State} (h : t.blob = s.blob) (a : Nat) : blobRead t a = blobRead s a := by
  simp [blobRead, h]

theorem noteIndex_eq (note : Byte) : noteIndex note = note.toNat / 8 % 16 := by
  revert note; decide

theorem noteIndex_lt (note : Byte) : noteIndex note < 16 := by
  rw [noteIndex_eq]; exact Nat.mod_lt _ (by omega)

theorem getLsbD_noteMask (note : Byte) (k : Fin 8) :
    (noteMask note).getLsbD k = decide (k.val = note.toNat % 8) := by
  revert note k; decide

/-- What writing the slots from address `a` on leaves at an address. -/
theorem read_writeSlots (cc value : Byte) (slots : List Byte) (a : Nat) (m : Memory) (x : Nat) :
    Memory.read (writeSlots cc value slots a m) x =
      if a ≤ x ∧ slots[x - a]? = some cc then value else Memory.read m x := by
  induction slots generalizing a m with
  | nil => simp [writeSlots]
  | cons slot rest ih =>
    rw [writeSlots, ih]
    rcases Nat.lt_trichotomy x a with h | h | h
    · have h1 : ¬ a + 1 ≤ x := by omega
      have h2 : ¬ a ≤ x := by omega
      have h3 : x ≠ a := by omega
      simp only [h1, h2, false_and, if_false]
      split <;> simp [h3]
    · subst h
      have h1 : ¬ x + 1 ≤ x := by omega
      simp only [h1, false_and, if_false, Nat.le_refl, true_and, Nat.sub_self,
        List.getElem?_cons_zero, Option.some.injEq]
      by_cases hc : cc = slot
      · simp [hc]
      · have hc' : ¬ slot = cc := fun h => hc h.symm
        simp [hc, hc']
    · obtain ⟨d, rfl⟩ : ∃ d, x = a + 1 + d := ⟨x - (a + 1), by omega⟩
      have h1 : a + 1 + d - (a + 1) = d := by omega
      have h2 : a + 1 + d - a = d + 1 := by omega
      have h3 : a + 1 + d ≠ a := by omega
      have h4 : a ≤ a + 1 + d := by omega
      rw [h1, h2]
      simp only [Nat.le_add_right, true_and, h4, List.getElem?_cons_succ]
      split
      · rfl
      · split <;> simp [h3]

/-- The slot writes keep the canonical form. -/
theorem wf_writeSlots (cc value : Byte) (slots : List Byte) (a : Nat) {m : Memory}
    (hm : Memory.wf m = true) : Memory.wf (writeSlots cc value slots a m) = true := by
  induction slots generalizing a m with
  | nil => exact hm
  | cons slot rest ih =>
    rw [writeSlots]
    refine ih (a + 1) ?_
    split
    · exact Memory.wf_write hm a value
    · exact hm

/-- The slot writes stay inside as long as they end there. -/
theorem within_writeSlots {size : Nat} (cc value : Byte) (slots : List Byte) (a : Nat) {m : Memory}
    (hm : Memory.within size m = true) (ha : a + slots.length ≤ size) :
    Memory.within size (writeSlots cc value slots a m) = true := by
  induction slots generalizing a m with
  | nil => exact hm
  | cons slot rest ih =>
    simp only [List.length_cons] at ha
    rw [writeSlots]
    refine ih (a + 1) ?_ (by omega)
    split
    · exact Memory.within_write hm (by omega) value
    · exact hm

/-! ### Handlers -/

/-- A blob operation changes the blob's cells and nothing else. -/
theorem eventBlob_frame (e : MidiEvent) (s : State) :
    eventBlob e s = { s with blob := (eventBlob e s).blob } := by
  cases e <;> rfl

theorem handleBlob_frame (e : MidiEvent) (s : State) :
    handleBlob e s = { s with blob := (handleBlob e s).blob } := by
  unfold handleBlob
  split
  · exact eventBlob_frame e s
  · rfl

/-- The frames a handler sends: one for a meaningful event in a build that forwards, else none. -/
def handlerFrames (c : Config) (e : MidiEvent) : List Frame :=
  if c.forwardEvents then (eventFrame c.transportArg e).toList else []

/-- What a handler leaves in the blob. -/
def handlerBlob (e : MidiEvent) (s : State) : Memory := (handleBlob e s).blob

theorem handleFrame_eq (e : MidiEvent) (s : State) :
    handleFrame e s = { s with out := s.out ++ handlerFrames s.cfg e } := by
  unfold handleFrame handlerFrames
  split
  · split <;> simp_all [emit]
  · simp

/-- A blob operation sees only the cells and the configuration. -/
theorem eventBlob_blob_congr (e : MidiEvent) {s t : State} (hb : t.blob = s.blob)
    (hc : t.cfg = s.cfg) : (eventBlob e t).blob = (eventBlob e s).blob := by
  cases e <;>
    simp [eventBlob, noteOn, noteOff, setController, setProgram, advanceSync, resetSync, blobRead,
      hb, hc]

theorem handlerBlob_congr (e : MidiEvent) {s t : State} (hb : t.blob = s.blob)
    (hc : t.cfg = s.cfg) : handlerBlob e t = handlerBlob e s := by
  unfold handlerBlob handleBlob
  rw [hc]
  split
  · exact eventBlob_blob_congr e hb hc
  · exact hb

/-- Firing an event: its record, the blob operation, its frame; nothing else. -/
theorem fire_eq (e : MidiEvent) (s : State) :
    fire e s = { s with
      fired := s.fired ++ [e], blob := handlerBlob e s, out := s.out ++ handlerFrames s.cfg e } := by
  have hb : (handleBlob e (record e s)).blob = handlerBlob e s :=
    handlerBlob_congr e (s := s) (t := record e s) rfl rfl
  unfold fire
  rw [handleFrame_eq, handleBlob_frame, hb]
  rfl

theorem fireOpt_some (e : MidiEvent) (s : State) : fireOpt (some e) s = fire e s := rfl

theorem fireOpt_none (s : State) : fireOpt none s = s := rfl

/-- Firing an optional event touches the record, the blob and the output only. -/
theorem fireOpt_frame (e : Option MidiEvent) (s : State) :
    fireOpt e s = { s with
      fired := s.fired ++ e.toList, blob := (fireOpt e s).blob,
      out := s.out ++ (match e with | some ev => handlerFrames s.cfg ev | none => []) } := by
  cases e with
  | none => simp [fireOpt]
  | some ev => simp [fireOpt, fire_eq]

theorem complete_frame (e b : Byte) (s : State) :
    complete e b s = { s with
      fired := (complete e b s).fired, blob := (complete e b s).blob,
      out := (complete e b s).out } := by
  unfold complete
  split
  · rw [fireOpt_frame]
  · rfl

/-- A data byte touches the decoder's counters, the last data byte, and what a handler writes. -/
theorem dataByte_frame (b : Byte) (s : State) :
    dataByte b s = { s with
      bytesReceived := (dataByte b s).bytesReceived, lastDataByte := b,
      fired := (dataByte b s).fired, blob := (dataByte b s).blob, out := (dataByte b s).out } := by
  unfold dataByte
  split
  · rfl
  · split
    · rw [complete_frame]
    · rfl

/-- A byte step touches the decoder's registers, the sink, and what a handler writes. -/
theorem byteStep_frame (b : Byte) (s : State) :
    byteStep b s = { s with
      mode := (byteStep b s).mode, pendingEvent := (byteStep b s).pendingEvent,
      bytesNeeded := (byteStep b s).bytesNeeded, bytesReceived := (byteStep b s).bytesReceived,
      lastDataByte := (byteStep b s).lastDataByte, blob := (byteStep b s).blob,
      out := (byteStep b s).out, passthroughSink := (byteStep b s).passthroughSink,
      fired := (byteStep b s).fired } := by
  unfold byteStep
  split
  · rfl
  · split
    · rfl
    · unfold immediate; rw [fireOpt_frame]; rfl
    · unfold enterPassthrough; rw [fire_eq]; rfl
    · unfold exitPassthrough; rw [fire_eq]; rfl
    · rfl
    · rw [dataByte_frame]

/-! ### Display, scanner, commands -/

/-- Calls on the display reach the display sequence of a build that has one, and nothing else. -/
theorem onDisplay_eq (calls : List DisplayCall) (s : State) :
    onDisplay calls s =
      { s with display := s.display ++ (if s.cfg.hasDisplay then calls else []) } := by
  unfold onDisplay; split <;> simp

/-- A key scan touches the ring, its index, the last-reported states and the output. -/
theorem keyScan_eq (s : State) :
    keyScan s = { s with
      keyGeneration := nextGeneration s
      keyGen := (sampleKeys s).keyGen
      keyLast := decideKeys (sampleKeys s).keyGen 0 s.keyLast
      out := s.out ++ keyReports s.cfg (sampleKeys s).keyGen 0 s.keyLast } := rfl

/-- The last-reported foot-switch state after the edge rule (43_input_scanner.md R222). -/
def fsNew (buf : List Contact) (last : Contact) : Contact := (fsAgreed buf).getD last

/-- The frames of the edge rule: one on a change (43_input_scanner.md R222). -/
def fsFrames (buf : List Contact) (last : Contact) : List Frame :=
  if fsNew buf last = last then [] else [fsFrame (fsNew buf last)]

/-- The edge rule touches the last-reported state and the output. -/
theorem fsReport_eq (s : State) :
    fsReport s = { s with fsLast := fsNew s.fsBuf s.fsLast, out := s.out ++ fsFrames s.fsBuf s.fsLast } := by
  unfold fsReport fsFrames fsNew
  split
  · next h => simp [h]
  · next c h =>
    simp only [h, Option.getD_some]
    split
    · next hc => subst hc; simp
    · rfl

/-- A foot-switch poll: the candidate, the buffer, then the edge rule on them. -/
theorem fsPoll_eq (v : Sample) (s : State) :
    fsPoll v s = { s with
      fsCandidate := fsCandidateOf s.cfg v s.fsCandidate
      fsBuf := (fsPush v s).fsBuf
      fsSlot := (s.fsSlot + 1) % s.cfg.fsSlots
      fsLast := fsNew (fsPush v s).fsBuf s.fsLast
      out := s.out ++ fsFrames (fsPush v s).fsBuf s.fsLast } := by
  unfold fsPoll; rw [fsReport_eq]; rfl

/-- A foot-switch poll touches its own registers and the output. -/
theorem fsPoll_frame (v : Sample) (s : State) :
    fsPoll v s = { s with
      fsCandidate := (fsPoll v s).fsCandidate, fsBuf := (fsPoll v s).fsBuf,
      fsSlot := (fsPoll v s).fsSlot, fsLast := (fsPoll v s).fsLast, out := (fsPoll v s).out } := by
  rw [fsPoll_eq]

/-- What a knob latch can do: nothing, or the copy and a poll; it stops only on an absent channel. -/
theorem knobLatch_cases (s : State) :
    (s.adcBatchComplete = false ∧ knobLatch s = .next s) ∨
    (s.adcBatchComplete = true ∧ channelsPresent s = true ∧
      knobLatch s = .next (fsPoll (sampleAt s s.cfg.fsChannel) (latchKnobs s))) ∨
    (s.adcBatchComplete = true ∧ channelsPresent s = false ∧
      knobLatch s = .fault .absentChannel) := by
  unfold knobLatch
  cases s.adcBatchComplete <;> cases channelsPresent s <;> simp

theorem shutdownRoutine_eq (s : State) :
    shutdownRoutine s = { s with
      pc := .halted, haltReason := .shutdown, rgb := Config.freeRgb s.freeCount
      display := s.display ++
        (if s.cfg.hasDisplay then .clear :: Config.freeDisplay s.freeCount else [])
      freeCount := s.freeCount + 1 } := by
  unfold shutdownRoutine; rw [onDisplay_eq]; rfl

theorem advanceProgress_eq (s : State) :
    advanceProgress s = { s with
      bootProgress := min (s.bootProgress + 1) s.cfg.bootProgressMax
      display := s.display ++ (if s.cfg.hasDisplay then
        [.drawProgress (min (s.bootProgress + 1) s.cfg.bootProgressMax)] else []) } := by
  unfold advanceProgress; rw [onDisplay_eq]

/-- Every command gives a next state. -/
theorem runStrobe_next (c : Command) (s : State) : ∃ t, runStrobe c s = .next t := by
  cases c <;> exact ⟨_, rfl⟩

/-- A command of the boot loop is the ready signal or nothing. -/
theorem bootCommand_cases (f : Frame) :
    (f.address = "/ready" ∧ bootCommand f = .ready) ∨
    (f.address ≠ "/ready" ∧ bootCommand f = .unmatched) := by
  unfold bootCommand; split <;> simp_all

/-- What the route lookup can answer. -/
theorem runCommand_cases (r : Routes) (f : Frame) :
    (f.address = "/led" ∧ ∃ v, runCommand r f = .led v) ∨
    (f.address = "/shutdown" ∧ runCommand r f = .shutdown) ∨
    (f.address = "/nf" ∧ r.nf = true ∧ runCommand r f = .nf) ∨
    (f.address = "/getknobs" ∧ runCommand r f = .getknobs) ∨
    runCommand r f = .unmatched := by
  unfold runCommand
  split
  · next h =>
    unfold ledCommand
    split
    · exact .inl ⟨h.1, _, rfl⟩
    · simp
    · simp
  · split
    · simp_all
    · split
      · simp_all
      · split <;> simp_all

/-- The drain of a byte list, as one frame. -/
theorem drainBytes_frame (bytes : List Byte) (s : State) :
    drainBytes bytes s = { s with
      mode := (drainBytes bytes s).mode, pendingEvent := (drainBytes bytes s).pendingEvent,
      bytesNeeded := (drainBytes bytes s).bytesNeeded,
      bytesReceived := (drainBytes bytes s).bytesReceived,
      lastDataByte := (drainBytes bytes s).lastDataByte, blob := (drainBytes bytes s).blob,
      out := (drainBytes bytes s).out,
      passthroughSink := (drainBytes bytes s).passthroughSink,
      fired := (drainBytes bytes s).fired, midiRx := (drainBytes bytes s).midiRx } := by
  induction bytes generalizing s with
  | nil => rfl
  | cons b rest ih =>
    rw [drainBytes, ih, byteStep_frame]

/-! ### The step -/

/-- A turn of the foreground. -/
theorem nextMove_nil {s : State} (h : s.sched = []) : step s = foreground s := by
  simp [step, nextMove, h]

theorem nextMove_go {s : State} {m : List Event} (h : s.sched = .go :: m) :
    step s = foreground { s with sched := m } := by
  simp [step, nextMove, h]

/-- A move of `IRQ` or of the environment. -/
theorem nextMove_environment {s : State} {e : Event} {m : List Event} (h : s.sched = e :: m)
    (he : e ≠ .go) : step s = environment e { s with sched := m } := by
  cases e <;> simp_all [step, nextMove]

/-- Every step is the foreground's or the environment's. -/
theorem step_cases (s : State) :
    (∃ m, step s = foreground { s with sched := m }) ∨
    (∃ e m, s.sched = e :: m ∧ e ≠ .go ∧ step s = environment e { s with sched := m }) := by
  match h : s.sched with
  | [] =>
    have hs : ({ s with sched := [] } : State) = s := by rw [← h]
    exact .inl ⟨[], by rw [hs]; exact nextMove_nil h⟩
  | e :: m =>
    by_cases he : e = .go
    · subst he; exact .inl ⟨m, nextMove_go h⟩
    · exact .inr ⟨e, m, rfl, he, nextMove_environment h he⟩

/-- What a move of `IRQ` or of the environment can leave. -/
theorem environment_cases {e : Event} {s t : State} (h : environment e s = .next t) :
    (e = .go ∧ t = s) ∨
    (e = .tick ∧ t = takeTick s) ∨
    (∃ b, e = .midiPush b ∧ t = pushMidi b s) ∨
    (∃ f, e = .framePush f ∧ t = { s with cmdRx := s.cmdRx ++ [f] }) ∨
    (∃ l, e = .pins l ∧ l.length = s.cfg.nKeys ∧ t = { s with pins := l }) ∨
    (∃ l, e = .adcBatch l ∧ l.length = s.cfg.nAdc ∧ (∀ v ∈ l, v.toNat < 2 ^ s.cfg.wSample) ∧
      t = { s with adcSample := l, adcBatchComplete := true }) ∨
    (∃ c v, e = .adcWrite c v ∧ c < s.cfg.nAdc ∧ v.toNat < 2 ^ s.cfg.wSample ∧
      t = { s with adcSample := s.adcSample.set c v }) := by
  cases e with
  | go => simp_all [environment]
  | tick => simp_all [environment, returnFromTick]
  | midiPush b => simp_all [environment]
  | framePush f => simp_all [environment]
  | pins l =>
    simp only [environment] at h
    split at h <;> simp_all
  | adcBatch l =>
    simp only [environment] at h
    split at h
    · next hl =>
      refine .inr (.inr (.inr (.inr (.inr (.inl ⟨l, rfl, hl.1, ?_, ?_⟩)))))
      · simpa [sampleFits] using hl.2
      · simpa [setBatchComplete] using h.symm
    · simp at h
  | adcWrite c v =>
    simp only [environment] at h
    split at h
    · next hl =>
      refine .inr (.inr (.inr (.inr (.inr (.inr ⟨c, v, rfl, hl.1, ?_, ?_⟩)))))
      · simpa [sampleFits] using hl.2
      · simpa using h.symm
    · simp at h

/-- A push changes the receive buffer, within its capacity, and at most the count of free values. -/
theorem pushMidi_frame (b : Byte) (s : State) :
    pushMidi b s =
      { s with midiRx := (pushMidi b s).midiRx, freeCount := (pushMidi b s).freeCount } := by
  unfold pushMidi; split <;> rfl

theorem pushMidi_length (b : Byte) (s : State) :
    s.midiRx.length < s.cfg.rxCap ∧ (pushMidi b s).midiRx = s.midiRx ++ [b] ∨
    s.cfg.rxCap ≤ s.midiRx.length ∧ (pushMidi b s).midiRx.length ≤ s.cfg.rxCap := by
  unfold pushMidi
  split
  · exact .inl ⟨by assumption, rfl⟩
  · exact .inr ⟨by omega, by simp⟩

end Sys2Proof.Machine
end

