-- ==== Sys2Proof/Laws/Status.lean ====
section
/-! SUPPORT. Laws of the status map: in a legal map each class of a status byte has one byte, and the
decoder reads the class and its field back from it. -/

namespace Sys2Proof

/-- A class stands at its position. -/
theorem getD_positionOf {k d : ByteClass} {l : List ByteClass} (h : k ∈ l) :
    l.getD (positionOf k l) d = k := by
  induction l with
  | nil => simp at h
  | cons x rest ih =>
    unfold positionOf
    split
    · next hx => simp [hx]
    · next hx => simpa using ih ((List.mem_cons.mp h).resolve_left fun he => hx he.symm)

theorem positionOf_lt {k : ByteClass} {l : List ByteClass} (h : k ∈ l) :
    positionOf k l < l.length := by
  induction l with
  | nil => simp at h
  | cons x rest ih =>
    unfold positionOf
    split
    · simp
    · next hx =>
      have := ih ((List.mem_cons.mp h).resolve_left fun he => hx he.symm)
      simpa using this

/-- In a list without repeats the position of the entry at `p` is `p`. -/
theorem positionOf_getElem {l : List ByteClass} (hl : l.Nodup) {p : Nat} (hp : p < l.length) :
    positionOf l[p] l = p := by
  induction l generalizing p with
  | nil => simp at hp
  | cons x rest ih =>
    obtain ⟨hx, hr⟩ := List.nodup_cons.mp hl
    cases p with
    | zero => simp [positionOf]
    | succ p =>
      have hp' : p < rest.length := by simpa using hp
      have hne : x ≠ rest[p] := fun he => hx (he ▸ List.getElem_mem hp')
      simp [positionOf, hne, ih hr hp']

theorem StatusMap.wf_perm {m : StatusMap} (h : m.wf = true) :
    m.channel.Perm channelClasses ∧ m.system.Perm systemClasses := by
  simpa [StatusMap.wf, List.isPerm_iff] using h

theorem channelByte_fields : ∀ (p : Fin 7) (c : BitVec 4),
    (BitVec.ofNat 4 (8 + p.val) ++ c).msb = true ∧
    (BitVec.ofNat 4 (8 + p.val) ++ c).extractLsb' 4 4 ≠ 0xF#4 ∧
    ((BitVec.ofNat 4 (8 + p.val) ++ c).extractLsb' 4 4).toNat - 8 = p.val ∧
    (BitVec.ofNat 4 (8 + p.val) ++ c).extractLsb' 0 4 = c := by decide

theorem systemByte_fields : ∀ p : Fin 16,
    (0xF#4 ++ BitVec.ofNat 4 p.val).msb = true ∧
    (0xF#4 ++ BitVec.ofNat 4 p.val).extractLsb' 4 4 = 0xF#4 ∧
    ((0xF#4 ++ BitVec.ofNat 4 p.val).extractLsb' 0 4).toNat = p.val := by decide

/-- A channel class's byte has its class and its channel field (30_encoding.md R93, R95). -/
theorem classify_channelByte {m : StatusMap} (h : m.wf = true) {k : ByteClass}
    (hk : k ∈ channelClasses) (c : BitVec 4) :
    classify m (m.channelByte k c) = k ∧ (m.channelByte k c).extractLsb' 0 4 = c := by
  have hp := (StatusMap.wf_perm h).1
  have hm : k ∈ m.channel := hp.mem_iff.mpr hk
  have hl : positionOf k m.channel < 7 := by
    simpa [hp.length_eq, channelClasses] using positionOf_lt hm
  obtain ⟨h1, h2, h3, h4⟩ := channelByte_fields ⟨positionOf k m.channel, hl⟩ c
  refine ⟨?_, h4⟩
  unfold classify StatusMap.channelByte
  rw [if_neg (by simp [h1]), if_pos h2, h3]
  exact getD_positionOf hm

/-- A system class's byte has its class (30_encoding.md R92, R93). -/
theorem classify_systemByte {m : StatusMap} (h : m.wf = true) {k : ByteClass}
    (hk : k ∈ systemClasses) : classify m (m.systemByte k) = k := by
  have hp := (StatusMap.wf_perm h).2
  have hm : k ∈ m.system := hp.mem_iff.mpr hk
  have hl : positionOf k m.system < 16 := by
    simpa [hp.length_eq, systemClasses] using positionOf_lt hm
  obtain ⟨h1, h2, h3⟩ := systemByte_fields ⟨positionOf k m.system, hl⟩
  unfold classify StatusMap.systemByte
  rw [if_neg (by simp [h1]), if_neg (by simp [h2]), h3]
  exact getD_positionOf hm

/-- The map of 30_encoding.md R93 is legal. -/
theorem StatusMap.midi_wf : StatusMap.midi.wf = true := by decide

end Sys2Proof
end

