-- ==== Sys2Proof/Laws/PerInstr.lean ====
section
/-! SUPPORT. Statements made for each instruction, one lemma per constructor. -/

namespace Sys2Proof.Laws.EncodeDecode

/-- Under a legal status map an instruction with an encoding is read back from its bytes, whatever
follows (30_encoding.md R93). -/
def Statement (i : Instr) : Prop :=
  ∀ (m : StatusMap) (rest : List Byte), m.wf = true → encode m i ≠ [] →
    decode m (encode m i ++ rest) = .ok i rest

theorem of_byte {i : Instr} (f : StatusMap → Byte) (he : ∀ m, encode m i = [f m])
    (hd : ∀ m : StatusMap, m.wf = true → decodeByte m (f m) = i) : Statement i := by
  intro m rest hm _
  rw [he]
  simp [decode, hd m hm]

theorem of_none {i : Instr} (he : ∀ m, encode m i = []) : Statement i := fun m _ _ h => absurd (he m) h

/-- A channel row: the decoder reads the class, then its field. -/
theorem of_channel {k : ByteClass} (hk : k ∈ channelClasses) (c : BitVec 4)
    (row : BitVec 4 → Instr) (he : ∀ m, encode m (row c) = [m.channelByte k c])
    (hd : ∀ m b, classify m b = k → decodeByte m b = row (b.extractLsb' 0 4)) : Statement (row c) :=
  of_byte _ he fun m hm => by
    obtain ⟨h1, h2⟩ := classify_channelByte hm hk c
    rw [hd m _ h1, h2]

/-- A row of one full byte. -/
theorem of_system {k : ByteClass} (hk : k ∈ systemClasses) (row : Instr)
    (he : ∀ m, encode m row = [m.systemByte k])
    (hd : ∀ m b, classify m b = k → decodeByte m b = row) : Statement row :=
  of_byte _ he fun m hm => hd m _ (classify_systemByte hm hk)

theorem noteOff (c : BitVec 4) : Statement (.noteOff c) :=
  of_channel (k := .noteOff) (by decide) c .noteOff (fun _ => rfl)
    (fun _ _ h => by simp [decodeByte, h])
theorem noteOn (c : BitVec 4) : Statement (.noteOn c) :=
  of_channel (k := .noteOn) (by decide) c .noteOn (fun _ => rfl)
    (fun _ _ h => by simp [decodeByte, h])
theorem polyPressure (c : BitVec 4) : Statement (.polyPressure c) :=
  of_channel (k := .polyPressure) (by decide) c .polyPressure (fun _ => rfl)
    (fun _ _ h => by simp [decodeByte, h])
theorem controlChange (c : BitVec 4) : Statement (.controlChange c) :=
  of_channel (k := .controlChange) (by decide) c .controlChange (fun _ => rfl)
    (fun _ _ h => by simp [decodeByte, h])
theorem programChange (c : BitVec 4) : Statement (.programChange c) :=
  of_channel (k := .programChange) (by decide) c .programChange (fun _ => rfl)
    (fun _ _ h => by simp [decodeByte, h])
theorem channelPressure (c : BitVec 4) : Statement (.channelPressure c) :=
  of_channel (k := .channelPressure) (by decide) c .channelPressure (fun _ => rfl)
    (fun _ _ h => by simp [decodeByte, h])
theorem pitchBend (c : BitVec 4) : Statement (.pitchBend c) :=
  of_channel (k := .pitchBend) (by decide) c .pitchBend (fun _ => rfl)
    (fun _ _ h => by simp [decodeByte, h])
theorem vendorStart : Statement .vendorStart :=
  of_system (k := .vendorStart) (by decide) _ (fun _ => rfl) (fun _ _ h => by simp [decodeByte, h])
theorem unlistedF1 : Statement .unlistedF1 :=
  of_system (k := .unlistedF1) (by decide) _ (fun _ => rfl) (fun _ _ h => by simp [decodeByte, h])
theorem songPosition : Statement .songPosition :=
  of_system (k := .songPosition) (by decide) _ (fun _ => rfl) (fun _ _ h => by simp [decodeByte, h])
theorem songSelect : Statement .songSelect :=
  of_system (k := .songSelect) (by decide) _ (fun _ => rfl) (fun _ _ h => by simp [decodeByte, h])
theorem unlistedF4 : Statement .unlistedF4 :=
  of_system (k := .unlistedF4) (by decide) _ (fun _ => rfl) (fun _ _ h => by simp [decodeByte, h])
theorem unlistedF5 : Statement .unlistedF5 :=
  of_system (k := .unlistedF5) (by decide) _ (fun _ => rfl) (fun _ _ h => by simp [decodeByte, h])
theorem tuneRequest : Statement .tuneRequest :=
  of_system (k := .tuneRequest) (by decide) _ (fun _ => rfl) (fun _ _ h => by simp [decodeByte, h])
theorem vendorEnd : Statement .vendorEnd :=
  of_system (k := .vendorEnd) (by decide) _ (fun _ => rfl) (fun _ _ h => by simp [decodeByte, h])
theorem clock : Statement .clock :=
  of_system (k := .clock) (by decide) _ (fun _ => rfl) (fun _ _ h => by simp [decodeByte, h])
theorem unlistedF9 : Statement .unlistedF9 :=
  of_system (k := .unlistedF9) (by decide) _ (fun _ => rfl) (fun _ _ h => by simp [decodeByte, h])
theorem start : Statement .start :=
  of_system (k := .start) (by decide) _ (fun _ => rfl) (fun _ _ h => by simp [decodeByte, h])
theorem cont : Statement .cont :=
  of_system (k := .cont) (by decide) _ (fun _ => rfl) (fun _ _ h => by simp [decodeByte, h])
theorem stop : Statement .stop :=
  of_system (k := .stop) (by decide) _ (fun _ => rfl) (fun _ _ h => by simp [decodeByte, h])
theorem unlistedFD : Statement .unlistedFD :=
  of_system (k := .unlistedFD) (by decide) _ (fun _ => rfl) (fun _ _ h => by simp [decodeByte, h])
theorem activeSense : Statement .activeSense :=
  of_system (k := .activeSense) (by decide) _ (fun _ => rfl) (fun _ _ h => by simp [decodeByte, h])
theorem systemReset : Statement .systemReset :=
  of_system (k := .systemReset) (by decide) _ (fun _ => rfl) (fun _ _ h => by simp [decodeByte, h])
theorem data (d : BitVec 7) : Statement (.data d) :=
  of_byte (fun _ => d.setWidth 8) (fun _ => rfl) fun m _ => by
    have h : ∀ d : BitVec 7,
        (d.setWidth 8).msb = false ∧ (d.setWidth 8).extractLsb' 0 7 = d := by decide
    simp [decodeByte, classify, h d]
theorem cmdReady : Statement .cmdReady := of_none fun _ => rfl
theorem cmdLed (v : Word) : Statement (.cmdLed v) := of_none fun _ => rfl
theorem cmdShutdown : Statement .cmdShutdown := of_none fun _ => rfl
theorem cmdNf : Statement .cmdNf := of_none fun _ => rfl
theorem cmdGetknobs : Statement .cmdGetknobs := of_none fun _ => rfl
theorem cmdUnmatched : Statement .cmdUnmatched := of_none fun _ => rfl
theorem tbStart : Statement .tbStart := of_none fun _ => rfl
theorem tbTick : Statement .tbTick := of_none fun _ => rfl
theorem tbSleep (n : Nat) : Statement (.tbSleep n) := of_none fun _ => rfl
theorem tbSwReset : Statement .tbSwReset := of_none fun _ => rfl
theorem tbSwRead : Statement .tbSwRead := of_none fun _ => rfl
theorem mdInit (f : Byte) : Statement (.mdInit f) := of_none fun _ => rfl
theorem mdByte (b : Byte) : Statement (.mdByte b) := of_none fun _ => rfl
theorem blNoteOn (note : Byte) : Statement (.blNoteOn note) := of_none fun _ => rfl
theorem blNoteOff (note : Byte) : Statement (.blNoteOff note) := of_none fun _ => rfl
theorem blSetController (cc value : Byte) : Statement (.blSetController cc value) := of_none fun _ => rfl
theorem blAdvanceSync : Statement .blAdvanceSync := of_none fun _ => rfl
theorem blResetSync : Statement .blResetSync := of_none fun _ => rfl
theorem blSetProgram (value : Byte) : Statement (.blSetProgram value) := of_none fun _ => rfl
theorem blSnapshot : Statement .blSnapshot := of_none fun _ => rfl
theorem scCycle : Statement .scCycle := of_none fun _ => rfl
theorem scKeyscan : Statement .scKeyscan := of_none fun _ => rfl
theorem scKnobLatch : Statement .scKnobLatch := of_none fun _ => rfl
theorem scFsPoll (v : Sample) : Statement (.scFsPoll v) := of_none fun _ => rfl
theorem schInit (initOk : Bool) : Statement (.schInit initOk) := of_none fun _ => rfl
theorem schBootIter : Statement .schBootIter := of_none fun _ => rfl
theorem schRunIter : Statement .schRunIter := of_none fun _ => rfl
theorem schMidiDrain : Statement .schMidiDrain := of_none fun _ => rfl
theorem schCmdPoll : Statement .schCmdPoll := of_none fun _ => rfl
theorem schScan : Statement .schScan := of_none fun _ => rfl
theorem schGate : Statement .schGate := of_none fun _ => rfl
theorem schShutdown : Statement .schShutdown := of_none fun _ => rfl

end Sys2Proof.Laws.EncodeDecode
end

