-- ==== Sys2Proof/Laws/Step.lean ====
section
/-! SUPPORT. What one action of the foreground can do, said once: every action that gives a next state
is one of these cases. -/

namespace Sys2Proof.Machine

/-- The actions of the foreground, each with the state it leaves (45_scheduler.md R260 to R273). -/
inductive ForegroundAction (s : State) : State → Prop where
  | poll : s.sleeping = true → ForegroundAction s (pollSleep s)
  | initFails : s.sleeping = false → s.pc = .init .start → s.initOk = false →
      ForegroundAction s { s with pc := .halted, haltReason := .initFailure }
  | initArms : s.sleeping = false → s.pc = .init .start → s.initOk = true →
      ForegroundAction s { s with tbArmed := true, pc := .init .decoder }
  | initEnds : s.sleeping = false → s.pc = .init .decoder →
      ForegroundAction s { s with
        channelFilter := s.cfg.channelFilterInit, mode := .normal,
        pendingEvent := none, bytesNeeded := 0, bytesReceived := 0, lastDataByte := 0,
        pc := .bootWait .framePoll }
  | bootNoFrame : s.sleeping = false → s.pc = .bootWait .framePoll → s.cmdRx = [] →
      ForegroundAction s { s with pc := .bootWait .stallCheck }
  | bootReady (f : Frame) (rest : List Frame) : s.sleeping = false →
      s.pc = .bootWait .framePoll → s.cmdRx = f :: rest → f.address = "/ready" →
      ForegroundAction s { s with cmdRx := rest, pc := .run .midiDrain }
  | bootDiscard (f : Frame) (rest : List Frame) : s.sleeping = false →
      s.pc = .bootWait .framePoll → s.cmdRx = f :: rest → f.address ≠ "/ready" →
      ForegroundAction s { s with cmdRx := rest, pc := .bootWait .stallCheck }
  | stallExceeded : s.sleeping = false → s.pc = .bootWait .stallCheck →
      s.cfg.bootStallThreshold < s.stopwatch →
      ForegroundAction s { s with pc := .bootWait .stallReset }
  | stallNotYet : s.sleeping = false → s.pc = .bootWait .stallCheck →
      s.stopwatch ≤ s.cfg.bootStallThreshold →
      ForegroundAction s { s with pc := .bootWait .framePoll }
  | stallResets : s.sleeping = false → s.pc = .bootWait .stallReset →
      ForegroundAction s { s with stopwatch := 0, pc := .bootWait .stallShow }
  | stallShows : s.sleeping = false → s.pc = .bootWait .stallShow →
      ForegroundAction s { s with
        bootProgress := min (s.bootProgress + 1) s.cfg.bootProgressMax
        display := s.display ++ (if s.cfg.hasDisplay then
          [.drawProgress (min (s.bootProgress + 1) s.cfg.bootProgressMax)] else [])
        pc := .bootWait .framePoll }
  | drainEnds : s.sleeping = false → s.pc = .run .midiDrain → s.midiRx = [] →
      ForegroundAction s { s with pc := .run .cmdPoll }
  | drainByte (b : Byte) (rest : List Byte) (t : State) : s.sleeping = false →
      s.pc = .run .midiDrain → s.midiRx = b :: rest →
      exec (decodeByte s.cfg.status b) { s with midiRx := rest } = .next t → ForegroundAction s t
  | pollNoFrame : s.sleeping = false → s.pc = .run .cmdPoll → s.cmdRx = [] →
      ForegroundAction s { s with pc := .run .scan }
  | pollLed (f : Frame) (rest : List Frame) (v : Word) : s.sleeping = false →
      s.pc = .run .cmdPoll → s.cmdRx = f :: rest → f.address = "/led" →
      ForegroundAction s { s with cmdRx := rest, rgb := ledColour v, pc := .run .scan }
  | pollShutdown (f : Frame) (rest : List Frame) : s.sleeping = false →
      s.pc = .run .cmdPoll → s.cmdRx = f :: rest → f.address = "/shutdown" →
      ForegroundAction s (shutdownRoutine { s with cmdRx := rest })
  | pollNf (f : Frame) (rest : List Frame) : s.sleeping = false →
      s.pc = .run .cmdPoll → s.cmdRx = f :: rest → f.address = "/nf" →
      ForegroundAction s { s with cmdRx := rest, stopwatch := 0, pc := .run .nfArm }
  | noticeArms : s.sleeping = false → s.pc = .run .nfArm →
      ForegroundAction s { s with snapshotPending := true, pc := .run .scan }
  | pollGetknobs (f : Frame) (rest : List Frame) : s.sleeping = false →
      s.pc = .run .cmdPoll → s.cmdRx = f :: rest → f.address = "/getknobs" →
      ForegroundAction s { s with
        cmdRx := rest, out := s.out ++ [knobsFrame s.knob], pc := .run .scan }
  | pollDiscard (f : Frame) (rest : List Frame) : s.sleeping = false →
      s.pc = .run .cmdPoll → s.cmdRx = f :: rest →
      ForegroundAction s { s with cmdRx := rest, pc := .run .scan }
  | scanKeys : s.sleeping = false → s.pc = .run .scan →
      ForegroundAction s { keyScan s with pc := .run .knobLatch }
  | scanNoBatch : s.sleeping = false → s.pc = .run .knobLatch → s.adcBatchComplete = false →
      ForegroundAction s { s with pc := .run .gate }
  | scanBatch : s.sleeping = false → s.pc = .run .knobLatch → s.adcBatchComplete = true →
      channelsPresent s = true →
      ForegroundAction s { fsPoll (sampleAt s s.cfg.fsChannel) (latchKnobs s) with pc := .run .gate }
  | gateOpens : s.sleeping = false → s.pc = .run .gate → s.snapshotPending = true →
      s.cfg.gateThreshold < s.stopwatch → ForegroundAction s { s with pc := .run .gateSend }
  | gateHolds : s.sleeping = false → s.pc = .run .gate →
      (s.snapshotPending = false ∨ s.stopwatch ≤ s.cfg.gateThreshold) →
      ForegroundAction s { s with pc := .run .midiDrain }
  | gateSends : s.sleeping = false → s.pc = .run .gateSend →
      ForegroundAction s { s with
        out := s.out ++ [mblobFrame (blobBytes s), knobsFrame s.knob]
        blob := if s.cfg.snapshotClears then [] else s.blob
        snapshotPending := false
        pc := .run .midiDrain }
  | halted : s.sleeping = false → s.pc = .halted → ForegroundAction s s

/-- "exceeds" is strict (40_timebase.md R127, D6). -/
theorem stopwatchExceeds_iff (threshold : Nat) (s : State) :
    stopwatchExceeds threshold s = true ↔ threshold < s.stopwatch :=
  decide_eq_true_iff

theorem gateOpens_iff (s : State) :
    gateOpens s = true ↔ s.snapshotPending = true ∧ s.cfg.gateThreshold < s.stopwatch := by
  simp [gateOpens, stopwatchExceeds_iff]

theorem gateOpens_false (s : State) :
    gateOpens s = false ↔ s.snapshotPending = false ∨ s.stopwatch ≤ s.cfg.gateThreshold := by
  rw [← Bool.not_eq_true, gateOpens_iff]
  cases s.snapshotPending <;> simp

/-- The emission of the gate. -/
theorem gateSend_eq (s : State) :
    gateSend s = { s with
      out := s.out ++ [mblobFrame (blobBytes s), knobsFrame s.knob]
      blob := if s.cfg.snapshotClears then [] else s.blob
      snapshotPending := false
      pc := .run .midiDrain } := by
  unfold gateSend sendSnapshot afterSnapshot clearSnapshot
  by_cases hc : s.cfg.snapshotClears = true <;> simp [hc, emit, blobZero]

/-- The gate as a whole: its two outcomes. -/
theorem gateStep_eq (s : State) :
    gateStep s = if s.snapshotPending = true ∧ s.cfg.gateThreshold < s.stopwatch then
      { s with
        out := s.out ++ [mblobFrame (blobBytes s), knobsFrame s.knob]
        blob := if s.cfg.snapshotClears then [] else s.blob
        snapshotPending := false
        pc := .run .midiDrain }
    else { s with pc := .run .midiDrain } := by
  unfold gateStep
  simp only [gateOpens_iff, gateSend_eq]

/-- The next frame is a notice exactly when it selects `CMD.NF`. -/
theorem noticeNext_iff (s : State) :
    noticeNext s = true ↔ ∃ f rest, s.cmdRx = f :: rest ∧ runCommand s.cfg.routes f = .nf := by
  unfold noticeNext
  cases s.cmdRx <;> simp

theorem ForegroundAction.of_boot {p : BootStep} {s t : State} (hs : s.sleeping = false)
    (hp : s.pc = .bootWait p) (h : bootAction p s = .next t) : ForegroundAction s t := by
  cases p with
  | framePoll =>
    simp only [bootAction, framePoll] at h
    split at h
    · next hc => cases h; exact .bootNoFrame hs hp hc
    · next f rest hc =>
      rcases bootCommand_cases f with ⟨ha, hb⟩ | ⟨ha, hb⟩ <;> rw [hb] at h <;> cases h
      · exact .bootReady f rest hs hp hc ha
      · exact .bootDiscard f rest hs hp hc ha
  | stallCheck =>
    simp only [bootAction, stallRead, stopwatchExceeds_iff] at h
    split at h <;> cases h
    · next hc => exact .stallExceeded hs hp hc
    · next hc => exact .stallNotYet hs hp (Nat.le_of_not_lt hc)
  | stallReset =>
    simp only [bootAction, stallReset] at h
    cases h
    exact .stallResets hs hp
  | stallShow =>
    simp only [bootAction, stallShow, advanceProgress_eq] at h
    cases h
    exact .stallShows hs hp

theorem ForegroundAction.of_run {p : RunStep} {s t : State} (hs : s.sleeping = false)
    (hp : s.pc = .run p) (h : runAction p s = .next t) : ForegroundAction s t := by
  cases p with
  | midiDrain =>
    simp only [runAction, drainAction] at h
    split at h
    · next hc => cases h; exact .drainEnds hs hp hc
    · next b rest hc => exact .drainByte b rest t hs hp hc h
  | cmdPoll =>
    simp only [runAction, pollAction] at h
    split at h
    · next hn =>
      obtain ⟨f, rest, hc, hb⟩ := (noticeNext_iff s).mp hn
      have ha : f.address = "/nf" := by
        rcases runCommand_cases s.cfg.routes f with
          ⟨_, v, h'⟩ | ⟨_, h'⟩ | ⟨ha, _⟩ | ⟨_, h'⟩ | h' <;> simp_all
      cases h
      have := ForegroundAction.pollNf f rest hs hp hc ha
      simpa [noticeReset, swReset, hc] using this
    · next hn =>
      simp only [exec, execSchCmdPoll, cmdPoll] at h
      split at h
      · next hc => cases h; exact .pollNoFrame hs hp hc
      · next f rest hc =>
        rcases runCommand_cases s.cfg.routes f with
          ⟨ha, v, hb⟩ | ⟨ha, hb⟩ | ⟨ha, _, hb⟩ | ⟨ha, hb⟩ | hb <;> rw [hb] at h
        · cases h; exact .pollLed f rest v hs hp hc ha
        · simp only [runStrobe, execCmdShutdown, andThen_next, shutdownRoutine_eq, afterCommand,
            if_true] at h
          cases h
          have := ForegroundAction.pollShutdown f rest hs hp hc ha
          rwa [shutdownRoutine_eq] at this
        · exact absurd ((noticeNext_iff s).mpr ⟨f, rest, hc, hb⟩) hn
        · cases h; exact .pollGetknobs f rest hs hp hc ha
        · cases h; exact .pollDiscard f rest hs hp hc
  | nfArm => cases h; exact .noticeArms hs hp
  | scan => cases h; exact .scanKeys hs hp
  | knobLatch =>
    simp only [runAction, exec, execScKnobLatch] at h
    rcases knobLatch_cases s with ⟨ha, hb⟩ | ⟨ha, hc, hb⟩ | ⟨_, _, hb⟩ <;> rw [hb] at h <;> cases h
    · exact .scanNoBatch hs hp ha
    · exact .scanBatch hs hp ha hc
  | gate =>
    simp only [runAction, gateRead] at h
    split at h <;> cases h
    · next hc => exact .gateOpens hs hp ((gateOpens_iff s).mp hc).1 ((gateOpens_iff s).mp hc).2
    · next hc => exact .gateHolds hs hp ((gateOpens_false s).mp (by simpa using hc))
  | gateSend =>
    simp only [runAction, gateSend_eq] at h
    cases h
    exact .gateSends hs hp

theorem ForegroundAction.of_init {p : InitStep} {s t : State} (hs : s.sleeping = false)
    (hp : s.pc = .init p) (h : initAction p s = .next t) : ForegroundAction s t := by
  cases p with
  | start =>
    simp only [initAction, initStart] at h
    split at h <;> cases h
    · next hi => exact .initArms hs hp hi
    · next hi => exact .initFails hs hp (by simpa using hi)
  | decoder => cases h; exact .initEnds hs hp

/-- Every action of the foreground that gives a next state is one of the listed ones. -/
theorem foreground_action {s t : State} (h : foreground s = .next t) : ForegroundAction s t := by
  unfold foreground at h
  split at h
  · next hs => cases h; exact .poll hs
  · next hs =>
    have hs : s.sleeping = false := by simpa using hs
    split at h
    · next p hp => exact .of_init hs hp h
    · next p hp => exact .of_boot hs hp h
    · next p hp => exact .of_run hs hp h
    · next hp => cases h; exact .halted hs hp

/-- A poll of the busy-wait changes at most `sleeping`. -/
theorem pollSleep_frame (s : State) :
    pollSleep s = { s with sleeping := (pollSleep s).sleeping } := by
  unfold pollSleep; split <;> rfl

/-- A tick changes at most the three counters. -/
theorem takeTick_frame (s : State) :
    takeTick s = { s with
      ticks := (takeTick s).ticks, countdown := (takeTick s).countdown
      stopwatch := (takeTick s).stopwatch } := by
  unfold takeTick; split <;> rfl

/-- A move of `IRQ` or of the environment changes at most the counters and the input ports. -/
theorem environment_frame {e : Event} {s t : State} (h : environment e s = .next t) :
    t = { s with
      ticks := t.ticks, countdown := t.countdown, stopwatch := t.stopwatch
      midiRx := t.midiRx, cmdRx := t.cmdRx, pins := t.pins, adcSample := t.adcSample
      adcBatchComplete := t.adcBatchComplete, freeCount := t.freeCount } := by
  rcases environment_cases h with ⟨_, rfl⟩ | ⟨_, rfl⟩ | ⟨b, _, rfl⟩ | ⟨f, _, rfl⟩ | ⟨l, _, _, rfl⟩ |
    ⟨l, _, _, _, rfl⟩ | ⟨c, v, _, _, _, rfl⟩ <;> try rfl
  · rw [takeTick_frame]
  · rw [pushMidi_frame]

/-! ### What decoding one byte can do -/

/-- What a byte of the drain can do, whatever the status map: it touches the decoder's registers and what
handlers write, and appends to the output sequences, no `/mblob` frame among what it sends. -/
structure ByteEffect (s t : State) : Prop where
  frame : t = { s with
    mode := t.mode, pendingEvent := t.pendingEvent, bytesNeeded := t.bytesNeeded
    bytesReceived := t.bytesReceived, lastDataByte := t.lastDataByte, blob := t.blob
    out := t.out, passthroughSink := t.passthroughSink, fired := t.fired }
  out : ∃ l, t.out = s.out ++ l ∧ ∀ f ∈ l, f.address ≠ "/mblob"
  sink : ∃ l, t.passthroughSink = s.passthroughSink ++ l
  fired : ∃ l, t.fired = s.fired ++ l

theorem handlerFrames_address (c : Config) (e : MidiEvent) :
    ∀ f ∈ handlerFrames c e, f.address ≠ "/mblob" := by
  intro f hf
  unfold handlerFrames at hf
  split at hf
  · cases e <;> simp_all [eventFrame]
  · simp at hf

/-- Firing sends no `/mblob` frame. -/
theorem fireOpt_out (e : Option MidiEvent) (s : State) :
    ∃ l, (fireOpt e s).out = s.out ++ l ∧ ∀ f ∈ l, f.address ≠ "/mblob" := by
  cases e with
  | none => exact ⟨[], by simp [fireOpt], by simp⟩
  | some ev => exact ⟨_, by rw [fireOpt_some, fire_eq], handlerFrames_address s.cfg ev⟩

theorem ByteEffect.of_silent {s t : State} (frame : t = { s with
    mode := t.mode, pendingEvent := t.pendingEvent, bytesNeeded := t.bytesNeeded
    bytesReceived := t.bytesReceived, lastDataByte := t.lastDataByte
    passthroughSink := t.passthroughSink })
    (sink : ∃ l, t.passthroughSink = s.passthroughSink ++ l) : ByteEffect s t where
  frame := by rw [frame]
  out := ⟨[], by rw [frame]; simp, by simp⟩
  sink := sink
  fired := ⟨[], by rw [frame]; simp⟩

theorem ByteEffect.forward (b : Byte) (s : State) : ByteEffect s (forward b s) :=
  .of_silent rfl ⟨_, rfl⟩

theorem ByteEffect.toIdle (s : State) : ByteEffect s (toIdle s) := .of_silent rfl ⟨[], by simp⟩

theorem ByteEffect.awaitArgs (b : Byte) (n : Nat) (s : State) : ByteEffect s (awaitArgs b n s) :=
  .of_silent rfl ⟨[], by simp⟩

theorem ByteEffect.immediate (k : ByteClass) (s : State) : ByteEffect s (immediate k s) where
  frame := by unfold Machine.immediate; rw [fireOpt_frame]; rfl
  out := fireOpt_out (immediateEvent k) s
  sink := ⟨[], by unfold Machine.immediate; rw [fireOpt_frame]; simp⟩
  fired := ⟨_, by unfold Machine.immediate; rw [fireOpt_frame]; rfl⟩

theorem ByteEffect.enterPassthrough (s : State) : ByteEffect s (enterPassthrough s) where
  frame := by unfold Machine.enterPassthrough; rw [fire_eq]; rfl
  out := ⟨_, by unfold Machine.enterPassthrough; rw [fire_eq]; rfl, handlerFrames_address s.cfg _⟩
  sink := ⟨_, by unfold Machine.enterPassthrough; rw [fire_eq]; rfl⟩
  fired := ⟨_, by unfold Machine.enterPassthrough; rw [fire_eq]; rfl⟩

theorem ByteEffect.exitPassthrough (s : State) : ByteEffect s (exitPassthrough s) where
  frame := by unfold Machine.exitPassthrough; rw [fire_eq]; rfl
  out := ⟨_, by unfold Machine.exitPassthrough; rw [fire_eq]; rfl, handlerFrames_address s.cfg _⟩
  sink := ⟨_, by unfold Machine.exitPassthrough; rw [fire_eq]; rfl⟩
  fired := ⟨_, by unfold Machine.exitPassthrough; rw [fire_eq]; rfl⟩

theorem ByteEffect.dataByte (b : Byte) (s : State) : ByteEffect s (dataByte b s) where
  frame := by rw [dataByte_frame]
  out := by
    unfold Machine.dataByte complete
    split
    · exact ⟨[], by simp, by simp⟩
    · split
      · split
        · exact fireOpt_out _ s
        · exact ⟨[], by simp, by simp⟩
      · exact ⟨[], by simp, by simp⟩
  sink := ⟨[], by rw [dataByte_frame]; simp⟩
  fired := by
    unfold Machine.dataByte complete
    split
    · exact ⟨[], by simp⟩
    · split
      · split
        · exact ⟨_, by rw [fireOpt_frame]⟩
        · exact ⟨[], by simp⟩
      · exact ⟨[], by simp⟩

theorem byteStep_effect (b : Byte) (s : State) : ByteEffect s (byteStep b s) := by
  unfold byteStep
  split
  · exact .forward b s
  · split
    · exact .awaitArgs b _ s
    · exact .immediate _ s
    · exact .enterPassthrough s
    · exact .exitPassthrough s
    · exact .toIdle s
    · exact .dataByte b s

theorem ByteEffect.unless {b : Byte} {f : State → State} {s : State} (h : ByteEffect s (f s)) :
    ByteEffect s (unlessPassthrough b f s) := by
  unfold unlessPassthrough
  split
  · exact .forward b s
  · exact h

/-- Every row a byte decodes to gives a next state, with the effects of a byte. -/
theorem row_effect (m : StatusMap) (b : Byte) (s : State) :
    ∃ t, exec (decodeByte m b) s = .next t ∧ ByteEffect s t := by
  unfold decodeByte
  cases classify m b <;> refine ⟨_, rfl, ?_⟩ <;>
    first
    | exact .exitPassthrough s
    | (refine ByteEffect.unless ?_
       first
       | exact .awaitArgs _ _ s
       | exact .immediate _ s
       | exact .enterPassthrough s
       | exact .toIdle s
       | exact .dataByte _ s)

/-- A foot-switch poll appends at most one `/fs` frame. -/
theorem fsPoll_out (v : Sample) (s : State) :
    (fsPoll v s).out = s.out ∨ ∃ c, (fsPoll v s).out = s.out ++ [fsFrame c] := by
  rw [fsPoll_eq]
  unfold fsFrames
  split
  · exact .inl (by simp)
  · exact .inr ⟨_, rfl⟩

/-- The frames of a key scan are `/key` frames. -/
theorem keyReports_address (c : Config) (ring : List (List Contact)) (i : Nat) (l : List Contact) :
    ∀ f ∈ keyReports c ring i l, f.address = "/key" := by
  induction l generalizing i with
  | nil => simp [keyReports]
  | cons last rest ih =>
    intro f hf
    simp only [keyReports, List.mem_append] at hf
    rcases hf with hf | hf
    · unfold keyReport at hf
      split at hf <;> simp_all [keyFrame]
    · exact ih _ f hf

/-- A key scan appends only `/key` frames. -/
theorem keyScan_out (s : State) :
    ∃ l, (keyScan s).out = s.out ++ l ∧ ∀ f ∈ l, f.address = "/key" :=
  ⟨_, rfl, keyReports_address s.cfg (sampleKeys s).keyGen 0 s.keyLast⟩

/-- A knob latch with its poll appends only `/fs` frames. -/
theorem knobLatch_out (v : Sample) (s : State) :
    ∃ l, (fsPoll v (latchKnobs s)).out = s.out ++ l ∧ ∀ f ∈ l, f.address = "/fs" := by
  rcases fsPoll_out v (latchKnobs s) with h | ⟨c, h⟩
  · exact ⟨[], by rw [h]; simp [latchKnobs, clearBatchComplete], by simp⟩
  · exact ⟨[fsFrame c], by rw [h]; rfl, by simp [fsFrame]⟩

/-- A step in which it is the foreground's turn is its action. -/
theorem step_of_turn {s u : State} (h : ForegroundTurn s u) : step s = foreground u := by
  rcases h with ⟨h, rfl⟩ | ⟨m, h, rfl⟩
  · exact nextMove_nil h
  · exact nextMove_go h

/-- Every step that gives a next state is an action of the foreground, or a move of `IRQ` or of the
environment, on the state with that move taken off the schedule. -/
theorem step_next_cases {s t : State} (h : step s = .next t) :
    (∃ u, ForegroundTurn s u ∧ ForegroundAction u t) ∨
    (∃ e m, s.sched = e :: m ∧ e ≠ .go ∧ environment e { s with sched := m } = .next t) := by
  match hs : s.sched with
  | [] =>
    have hu : ForegroundTurn s s := .inl ⟨hs, rfl⟩
    exact .inl ⟨s, hu, foreground_action (by rwa [step_of_turn hu] at h)⟩
  | e :: m =>
    by_cases he : e = .go
    · subst he
      have hu : ForegroundTurn s { s with sched := m } := .inr ⟨m, hs, rfl⟩
      exact .inl ⟨_, hu, foreground_action (by rwa [step_of_turn hu] at h)⟩
    · rw [nextMove_environment hs he] at h
      exact .inr ⟨e, m, rfl, he, h⟩

/-- Taking the foreground's turn off the schedule changes nothing else. -/
theorem ForegroundTurn.eq {s u : State} (h : ForegroundTurn s u) :
    u = { s with sched := u.sched } := by
  rcases h with ⟨_, rfl⟩ | ⟨m, _, rfl⟩ <;> rfl

end Sys2Proof.Machine
end

