-- ==== Sys2Proof/Tests/Slice0.lean ====
section
/-! SUPPORT. Tests.  Expected results come from the status map of 30_encoding.md R93, from the vectors
of 95_test_vectors.md (their names stand in the comments), or from a rule worked by hand; parameters
are the illustrative ones of 95_test_vectors.md. -/

namespace Sys2Proof.Tests

open Sys2Proof.Machine

/-! ### Small states -/

/-- A reset device with the illustrative parameters. -/
def base : State := State.resetOf Config.illustrative

/-- The same in `Run` at MIDI_DRAIN, armed. -/
def running : State := { base with pc := .run .midiDrain, tbArmed := true }

/-- A message of the status byte `e` with `n` arguments, of which only the last is still to come; the
byte before it was `a`. -/
def partWay (e a : Byte) (n : Nat) : State :=
  { running with
    pendingEvent := some e, bytesNeeded := n, bytesReceived := n - 1, lastDataByte := a }

/-- The same with room for two received bytes. -/
def small : State := { running with cfg := { Config.illustrative with rxCap := 2 } }

/-- The outcome is a next state with a property. -/
def nextHas (o : Host.Outcome State Fault Refusal) (p : State → Bool) : Bool :=
  match o with
  | .next t => p t
  | .fault _ => false
  | .refused _ => false

/-- The decoder is in `Idle`. -/
def idle (s : State) : Bool := s.pendingEvent == none && s.bytesNeeded == 0 && s.bytesReceived == 0

/-- The decoder awaits `n` arguments of `e`. -/
def awaiting (e : Byte) (n : Nat) (s : State) : Bool :=
  s.pendingEvent == some e && s.bytesNeeded == n && s.bytesReceived == 0

/-! ### Decoding: one byte for each row of R93, written out bit by bit -/

theorem test_decode_noteOff : decode .midi [0b10000101#8] = .ok (.noteOff 5) [] := by decide
theorem test_decode_noteOn : decode .midi [0b10011111#8] = .ok (.noteOn 15) [] := by decide
theorem test_decode_polyPressure : decode .midi [0b10100001#8] = .ok (.polyPressure 1) [] := by decide
theorem test_decode_controlChange : decode .midi [0b10110010#8] = .ok (.controlChange 2) [] := by decide
theorem test_decode_programChange : decode .midi [0b11000101#8] = .ok (.programChange 5) [] := by decide
theorem test_decode_channelPressure : decode .midi [0b11010100#8] = .ok (.channelPressure 4) [] := by
  decide
theorem test_decode_pitchBend : decode .midi [0b11101000#8] = .ok (.pitchBend 8) [] := by decide
theorem test_decode_vendorStart : decode .midi [0b11110000#8] = .ok .vendorStart [] := by decide
theorem test_decode_unlistedF1 : decode .midi [0b11110001#8] = .ok .unlistedF1 [] := by decide
theorem test_decode_songPosition : decode .midi [0b11110010#8] = .ok .songPosition [] := by decide
theorem test_decode_songSelect : decode .midi [0b11110011#8] = .ok .songSelect [] := by decide
theorem test_decode_unlistedF4 : decode .midi [0b11110100#8] = .ok .unlistedF4 [] := by decide
theorem test_decode_unlistedF5 : decode .midi [0b11110101#8] = .ok .unlistedF5 [] := by decide
theorem test_decode_tuneRequest : decode .midi [0b11110110#8] = .ok .tuneRequest [] := by decide
theorem test_decode_vendorEnd : decode .midi [0b11110111#8] = .ok .vendorEnd [] := by decide
theorem test_decode_clock : decode .midi [0b11111000#8] = .ok .clock [] := by decide
theorem test_decode_unlistedF9 : decode .midi [0b11111001#8] = .ok .unlistedF9 [] := by decide
theorem test_decode_start : decode .midi [0b11111010#8] = .ok .start [] := by decide
theorem test_decode_cont : decode .midi [0b11111011#8] = .ok .cont [] := by decide
theorem test_decode_stop : decode .midi [0b11111100#8] = .ok .stop [] := by decide
theorem test_decode_unlistedFD : decode .midi [0b11111101#8] = .ok .unlistedFD [] := by decide
theorem test_decode_activeSense : decode .midi [0b11111110#8] = .ok .activeSense [] := by decide
theorem test_decode_systemReset : decode .midi [0b11111111#8] = .ok .systemReset [] := by decide
theorem test_decode_data : decode .midi [0b00111100#8, 0x80#8] = .ok (.data 60) [0x80#8] := by decide
/-- D7: the table is "one constant so that it can be replaced"; here two classes change places. -/
theorem test_decode_otherMap :
    let m : StatusMap := { StatusMap.midi with channel :=
      [.noteOn, .noteOff, .polyPressure, .controlChange, .programChange, .channelPressure, .pitchBend] }
    m.wf = true ∧ decode m [0x85#8] = .ok (.noteOn 5) [] ∧ encode m (.noteOff 5) = [0x95#8] := by
  decide
theorem test_decode_nothing : decode .midi [] = .rejected .noByte := by decide

theorem test_decodeTableWord_noteOn : decodeTableWord 8 0x9F = some (.noteOn 15) := by decide
theorem test_decodeTableWord_data : decodeTableWord 8 0x7F = some (.data 127) := by decide
theorem test_decodeTableWord_none : decodeTableWord 0 0 = none := by decide
theorem test_withFetchWord_clock :
    nextHas (step (base.withFetchWord 8 0xF8)) (fun t => t.fired == [.clock] && t.midiRx == []) =
      true := by decide
theorem test_withFetchWord_data :
    nextHas (step (State.reset.withFetchWord 8 0x3C)) (fun t => t.lastDataByte == 0x3C#8) = true := by
  rfl

/-- P1 of 95_test_vectors.md: the program's encoding. -/
theorem test_assemble_P1 :
    assemble .midi [.message (.noteOn 0) [60, 100], .run [62, 100], .run [60, 0]] =
      [0x90#8, 0x3C#8, 0x64#8, 0x3E#8, 0x64#8, 0x3C#8, 0x00#8] := by decide

/-- P3 of 95_test_vectors.md: the first lines of the program. -/
theorem test_assemble_P3 :
    assemble .midi [.message (.programChange 9) [5], .message .vendorStart [], .byte 0x01#8] =
      [0xC9#8, 0x05#8, 0xF0#8, 0x01#8] := by decide

/-- R240, R247, R248: a route that is not enabled, a malformed frame, a frame of Boot-Wait. -/
theorem test_runCommand :
    runCommand ⟨true, true, true, true⟩ ⟨"/led", [.int 5]⟩ = .led 5 ∧
    runCommand ⟨false, true, true, true⟩ ⟨"/led", [.int 5]⟩ = .unmatched ∧
    runCommand ⟨true, true, true, true⟩ ⟨"/led", []⟩ = .unmatched ∧
    runCommand ⟨true, true, true, true⟩ ⟨"/ready", []⟩ = .unmatched ∧
    bootCommand ⟨"/ready", [.int 1]⟩ = .ready ∧ bootCommand ⟨"/nf", []⟩ = .unmatched := by decide

/-! ### Well-formedness: each check refuses an ill-formed term -/

theorem test_wf_tbSleep : Instr.wf Config.illustrative (.tbSleep (2 ^ 32)) = false := by decide
theorem test_wf_blNoteOn : Instr.wf Config.illustrative (.blNoteOn 128) = false := by decide
theorem test_wf_blNoteOff : Instr.wf Config.illustrative (.blNoteOff 255) = false := by decide
theorem test_wf_blSetController_cc :
    Instr.wf Config.illustrative (.blSetController 128 0) = false := by decide
theorem test_wf_blSetController_value :
    Instr.wf Config.illustrative (.blSetController 21 128) = false := by decide
theorem test_wf_blSetProgram : Instr.wf Config.illustrative (.blSetProgram 128) = false := by decide
theorem test_wf_scFsPoll : Instr.wf Config.illustrative (.scFsPoll 4096) = false := by decide
theorem test_wf_accepts :
    Instr.wf Config.illustrative (.tbSleep (2 ^ 32 - 1)) = true ∧
    Instr.wf Config.illustrative (.blSetController 127 127) = true ∧
    Instr.wf Config.illustrative (.scFsPoll 4095) = true := by decide

theorem test_config_legal : Config.illustrative.wf = true := by decide
theorem test_config_keys : { Config.illustrative with nKeys := 0 }.wf = false := by decide
theorem test_config_keyPin : { Config.illustrative with keyPin := [] }.wf = false := by decide
theorem test_config_widths :
    { Config.illustrative with wTicks := 0 }.wf = false ∧
    { Config.illustrative with wCountdown := 0 }.wf = false ∧
    { Config.illustrative with wStopwatch := 0 }.wf = false := by decide
theorem test_config_otherWidths :
    { Config.illustrative with wTicks := 16, wCountdown := 8, wStopwatch := 24 }.wf = true := by decide
/-- A class that stands twice, a class of the other part, a list too short. -/
theorem test_config_status :
    { Config.illustrative with status := { StatusMap.midi with
      channel := [.noteOn, .noteOn, .polyPressure, .controlChange, .programChange,
        .channelPressure, .pitchBend] } }.wf = false ∧
    { Config.illustrative with status := { StatusMap.midi with
      channel := [.clock, .noteOn, .polyPressure, .controlChange, .programChange,
        .channelPressure, .pitchBend] } }.wf = false ∧
    { Config.illustrative with status := { StatusMap.midi with system := [.vendorStart] } }.wf =
      false := by decide
theorem test_config_generations : { Config.illustrative with keyGenerations := 5 }.wf = false := by
  decide
theorem test_config_keyValues :
    { Config.illustrative with keyPressedValue := 127 }.wf = false ∧
    { Config.illustrative with keyReleasedValue := 1 }.wf = false := by decide
theorem test_config_knobs : { Config.illustrative with nKnobs := 5 }.wf = false := by decide
theorem test_config_fsSlots : { Config.illustrative with fsSlots := 3 }.wf = false := by decide
theorem test_config_syncModulus : { Config.illustrative with syncModulus := 48 }.wf = false := by
  decide
theorem test_config_blobSize : { Config.illustrative with blobSize := 24 }.wf = false := by decide
theorem test_config_channels : { Config.illustrative with nAdc := 5 }.wf = false := by decide
theorem test_config_knobCount :
    { Config.illustrative with knobMap := [3, 0, 1, 2, 5] }.wf = false := by decide
theorem test_config_knobRange :
    { Config.illustrative with knobMap := [3, 0, 1, 2, 5, 7] }.wf = false := by decide
theorem test_config_knobTwice :
    { Config.illustrative with knobMap := [3, 0, 1, 2, 5, 3] }.wf = false := by decide
theorem test_config_knobIdentity :
    { Config.illustrative with knobMap := [0, 1, 2, 3, 4, 5] }.wf = false := by decide
theorem test_config_fsChannel : { Config.illustrative with fsChannel := 7 }.wf = false := by decide
theorem test_config_narrow : { Config.illustrative with wSample := 0 }.wf = false := by decide
theorem test_config_wide : { Config.illustrative with wSample := 32 }.wf = false := by decide
theorem test_config_fsOrder : { Config.illustrative with fsLow := 3001 }.wf = false := by decide
theorem test_config_ccRange :
    { Config.illustrative with ccSlot := #v[128, 22, 23, 24, 25] }.wf = false := by decide
theorem test_config_ccTwice :
    { Config.illustrative with ccSlot := #v[21, 22, 23, 24, 21] }.wf = false := by decide
theorem test_config_rxCap : { Config.illustrative with rxCap := 0 }.wf = false := by decide

/-! ### Timebase (vectors TB-*) -/

/-- TB-5, first part. -/
theorem test_tbStart : nextHas (exec .tbStart base) (fun t => t.tbArmed) = true := by decide

/-- TB-1. -/
theorem test_tbTick_counts :
    nextHas (exec .tbTick { base with countdown := 2, stopwatch := 7, ticks := 9 })
      (fun t => t.countdown == 1 && t.stopwatch == 8 && t.ticks == 10) = true := by decide

/-- TB-3. -/
theorem test_tbTick_wraps :
    nextHas (exec .tbTick { base with stopwatch := 2 ^ 32 - 1 })
      (fun t => t.countdown == 0 && t.stopwatch == 0) = true := by decide

/-- TB-4: before `TB.START` a tick event is no step of `IRQ`. -/
theorem test_tick_unarmed :
    nextHas (step { base with sched := [.tick] }) (fun t => t.ticks == 0 && t.sched == []) =
      true := by decide

/-- TB-7 and TB-8: sleeping for 0 ends at once, for 3 it does not. -/
theorem test_tbSleep :
    nextHas (exec (.tbSleep 0) { base with stopwatch := 40 })
      (fun t => !t.sleeping && t.stopwatch == 40) = true ∧
    nextHas (exec (.tbSleep 3) base) (fun t => t.sleeping && t.countdown == 3) = true := by decide

/-- TB-9: without ticks the wait goes on. -/
theorem test_tbSleep_stuck :
    nextHas (step { base with countdown := 1, sleeping := true })
      (fun t => t.sleeping && t.countdown == 1) = true := by decide

/-- TB-10. -/
theorem test_tbSwReset :
    nextHas (exec .tbSwReset { base with countdown := 5, stopwatch := 812 })
      (fun t => t.countdown == 5 && t.stopwatch == 0) = true := by decide

/-- TB-6, last part. -/
theorem test_tbSwRead :
    nextHas (exec .tbSwRead { base with stopwatch := 2 })
      (fun t => t.ret == .count 2 && t.stopwatch == 2) = true := by decide

/-! ### Decoder (vectors MD-*) -/

/-- R140. -/
theorem test_mdInit :
    nextHas (exec (.mdInit 10) { partWay 0x90 60 2 with mode := .passthrough })
      (fun t => t.channelFilter == 10#8 && t.mode == .normal && idle t && t.lastDataByte == 0#8) =
      true := by decide

/-- MD-1, the completing byte: event, frame and note bit. -/
theorem test_mdByte_noteOn :
    nextHas (exec (.mdByte 0x40) (partWay 0x90 0x3C 2))
      (fun t => t.fired == [.noteOn 1 60 64] && t.out == [⟨"/mnon", [.int 1, .int 60, .int 64]⟩] &&
        blobRead t 7 == 0x10#8 && awaiting 0x90 2 t && t.lastDataByte == 0x40#8) = true := by decide

/-- MD-4 and MD-22: a status byte starts its message again. -/
theorem test_noteOff : nextHas (exec (.noteOff 0) running) (awaiting 0x80 2) = true := by decide
theorem test_noteOn : nextHas (exec (.noteOn 1) (partWay 0x90 60 2)) (awaiting 0x91 2) = true := by
  decide
theorem test_polyPressure : nextHas (exec (.polyPressure 0) running) (awaiting 0xA0 2) = true := by
  decide
theorem test_controlChange : nextHas (exec (.controlChange 2) running) (awaiting 0xB2 2) = true := by
  decide
theorem test_programChange : nextHas (exec (.programChange 5) running) (awaiting 0xC5 1) = true := by
  decide
theorem test_channelPressure :
    nextHas (exec (.channelPressure 0) running) (awaiting 0xD0 1) = true := by decide
theorem test_pitchBend : nextHas (exec (.pitchBend 0) running) (awaiting 0xE0 2) = true := by decide
theorem test_songPosition : nextHas (exec .songPosition running) (awaiting 0xF2 2) = true := by decide
theorem test_songSelect : nextHas (exec .songSelect running) (awaiting 0xF3 1) = true := by decide

/-- MD-3: velocity zero. -/
theorem test_data_velocityZero :
    nextHas (exec (.data 0) (partWay 0x90 0x3C 2))
      (fun t => t.fired == [.noteOff 1 60 0] && t.out == [⟨"/mnoff", [.int 1, .int 60, .int 0]⟩] &&
        blobRead t 7 == 0#8) = true := by decide

/-- MD-15: filtered out, the counter is reset all the same. -/
theorem test_data_filtered :
    nextHas (exec (.data 0x40) { partWay 0x91 0x3C 2 with channelFilter := 1 })
      (fun t => t.fired == [] && t.out == [] && awaiting 0x91 2 t) = true := by decide

/-- MD-18: in passthrough a status byte is forwarded and no register changes. -/
theorem test_noteOn_passthrough :
    nextHas (exec (.noteOn 0) { running with mode := .passthrough })
      (fun t => t.passthroughSink == [.byte 0x90] && idle t && t.mode == .passthrough) = true := by
  decide

/-- MD-18, MD-28: the markers. -/
theorem test_vendorStart :
    nextHas (exec .vendorStart (partWay 0x90 60 2))
      (fun t => t.mode == .passthrough && idle t && t.passthroughSink == [.enter] &&
        t.fired == [.passthroughEnter]) = true := by decide

/-- MD-21: the end marker outside passthrough. -/
theorem test_vendorEnd :
    nextHas (exec .vendorEnd (partWay 0x90 60 2))
      (fun t => t.mode == .normal && idle t && t.passthroughSink == [.exit] &&
        t.fired == [.passthroughExit]) = true := by decide

/-- MD-25, MD-26 and their like: no event, `Idle`. -/
theorem test_unlistedF1 :
    nextHas (exec .unlistedF1 (partWay 0x90 60 2)) (fun t => idle t && t.fired == []) = true := by decide
theorem test_unlistedF4 :
    nextHas (exec .unlistedF4 (partWay 0x90 60 2)) (fun t => idle t && t.fired == []) = true := by decide
theorem test_unlistedF5 :
    nextHas (exec .unlistedF5 (partWay 0x90 60 2)) (fun t => idle t && t.fired == []) = true := by decide
theorem test_unlistedF9 :
    nextHas (exec .unlistedF9 (partWay 0x90 60 2)) (fun t => idle t && t.fired == []) = true := by decide
theorem test_unlistedFD :
    nextHas (exec .unlistedFD (partWay 0x90 60 2)) (fun t => idle t && t.fired == []) = true := by decide

/-- MD-27. -/
theorem test_tuneRequest :
    nextHas (exec .tuneRequest (partWay 0x90 60 2))
      (fun t => idle t && t.fired == [.tuneRequest] && t.out == []) = true := by decide
theorem test_activeSense :
    nextHas (exec .activeSense (partWay 0x90 60 2))
      (fun t => idle t && t.fired == [.activeSense] && t.out == []) = true := by decide
theorem test_systemReset :
    nextHas (exec .systemReset { partWay 0x90 60 2 with channelFilter := 3, blob := [(21, 7)] })
      (fun t => idle t && t.fired == [.systemReset] && t.channelFilter == 3#8 &&
        blobRead t 21 == 7#8) = true := by decide

/-- P2 of 95_test_vectors.md, one byte at a time: start, clock, stop, and R165. -/
theorem test_start :
    nextHas (exec .start { running with blob := [(21, 17)] })
      (fun t => blobRead t 21 == 0#8 && t.out == [⟨"/mstart", [.int 1]⟩] && t.fired == [.start]) =
      true := by decide
theorem test_clock :
    nextHas (exec .clock { running with blob := [(21, 23)] })
      (fun t => blobRead t 21 == 0#8 && t.out == [⟨"/msync", [.int 1]⟩] && t.fired == [.clock]) =
      true := by decide
theorem test_cont :
    nextHas (exec .cont { running with blob := [(21, 17)] })
      (fun t => blobRead t 21 == 0#8 && t.out == [⟨"/mcont", [.int 1]⟩] && t.fired == [.cont]) =
      true := by decide
theorem test_stop :
    nextHas (exec .stop { running with blob := [(21, 3)] })
      (fun t => blobRead t 21 == 3#8 && t.out == [⟨"/mstop", [.int 1]⟩] && t.fired == [.stop]) =
      true := by decide

/-! ### Blob (vectors BL-*) -/

/-- BL-1 and BL-3. -/
theorem test_blNoteOn :
    nextHas (exec (.blNoteOn 60) base) (fun t => t.blob == [(7, 0x10#8)]) = true ∧
    nextHas (exec (.blNoteOn 127) base) (fun t => t.blob == [(15, 0x80#8)]) = true := by decide

/-- BL-6 and BL-4. -/
theorem test_blNoteOff :
    nextHas (exec (.blNoteOff 60) { base with blob := [(7, 0x50)] })
      (fun t => t.blob == [(7, 0x40#8)]) = true ∧
    nextHas (exec (.blNoteOff 60) { base with blob := [(7, 0x10)] }) (fun t => t.blob == []) =
      true := by decide

/-- BL-10. -/
theorem test_blSetController :
    nextHas (exec (.blSetController 23 100) base) (fun t => t.blob == [(18, 100#8)]) = true := by decide

/-- BL-11. -/
theorem test_blSetController_other :
    nextHas (exec (.blSetController 7 100) base) (fun t => t.blob == []) = true := by decide

/-- BL-7 and BL-8, the last advance of each. -/
theorem test_blAdvanceSync :
    nextHas (exec .blAdvanceSync { base with blob := [(21, 23)] }) (fun t => t.blob == []) = true ∧
    nextHas (exec .blAdvanceSync { base with blob := [(21, 22)] })
      (fun t => t.blob == [(21, 23#8)]) = true := by decide

/-- BL-9. -/
theorem test_blResetSync :
    nextHas (exec .blResetSync { base with blob := [(20, 1), (21, 11)] })
      (fun t => t.blob == [(20, 1#8)]) = true := by decide

/-- BL-12. -/
theorem test_blSetProgram :
    nextHas (exec (.blSetProgram 7) base) (fun t => t.blob == [(22, 7#8)]) = true := by decide

/-- BL-13. -/
theorem test_blSnapshot :
    nextHas (exec .blSnapshot { base with blob := [(0, 1)] })
      (fun t => t.ret == .bytes (1#8 :: List.replicate 22 0#8) && t.blob == [(0, 1#8)]) = true := by
  decide

/-! ### Scanner (vectors KS-*, KN-*, FS-*) -/

/-- KS-7, the fourth cycle: both keys, in ascending index. -/
theorem test_scKeyscan_press :
    nextHas (exec .scKeyscan { base with
        pins := [true, true], keyGeneration := 3
        keyGen := [[.released, .released], [.pressed, .pressed], [.pressed, .pressed],
          [.pressed, .pressed]] })
      (fun t => t.keyGeneration == 0 && t.keyLast == [.pressed, .pressed] &&
        t.out == [⟨"/key", [.int 0, .int 100]⟩, ⟨"/key", [.int 1, .int 100]⟩]) = true := by decide

/-- KS-1, the first cycle: slot 1 is written. -/
theorem test_scKeyscan_slot :
    nextHas (exec .scKeyscan { base with pins := [true, false] })
      (fun t => t.keyGeneration == 1 && t.keyGen[0]? == some [.released, .released] &&
        t.keyGen[1]? == some [.pressed, .released] && t.out == []) = true := by decide

/-- KN-1: remap, flag, and one foot-switch poll in the dead band. -/
theorem test_scKnobLatch :
    nextHas (exec .scKnobLatch { base with
        adcSample := [10, 20, 30, 40, 50, 60, 2000], adcBatchComplete := true })
      (fun t => t.knob == [40, 10, 20, 30, 60, 50] && !t.adcBatchComplete && t.fsSlot == 1 &&
        t.out == []) = true := by decide

/-- KN-2: no batch, no latch and no poll. -/
theorem test_scKnobLatch_noBatch :
    nextHas (exec .scKnobLatch { base with adcSample := List.replicate 7 99 })
      (fun t => t.knob == base.knob && t.fsSlot == 0) = true := by decide

/-- FS-1, the second poll. -/
theorem test_scFsPoll_press :
    nextHas (exec (.scFsPoll 500) { base with
        fsBuf := [.pressed, .released], fsSlot := 1, fsCandidate := .pressed })
      (fun t => t.out == [⟨"/fs", [.int 1]⟩] && t.fsLast == .pressed && t.fsSlot == 0) = true := by
  decide

/-- FS-6: the comparison is strict. -/
theorem test_scFsPoll_boundary :
    nextHas (exec (.scFsPoll 1000) base) (fun t => t.fsCandidate == .released && t.out == []) =
      true := by decide

/-- R210, D21: keys are reported before the foot switch. -/
theorem test_scCycle :
    nextHas (exec .scCycle { base with
        pins := [true, false]
        keyGen := [[.pressed, .released], [.released, .released], [.pressed, .released],
          [.pressed, .released]]
        adcSample := [0, 0, 0, 0, 0, 0, 500], adcBatchComplete := true
        fsBuf := [.released, .pressed] })
      (fun t => t.out == [⟨"/key", [.int 0, .int 100]⟩, ⟨"/fs", [.int 1]⟩]) = true := by decide

/-! ### Commands (vectors CM-*) -/

/-- CM-11. -/
theorem test_cmdReady :
    nextHas (exec .cmdReady { base with pc := .bootWait .framePoll })
      (fun t => t.pc == .run .midiDrain) = true := by decide

/-- CM-2 and CM-4. -/
theorem test_cmdLed :
    nextHas (exec (.cmdLed 5) running) (fun t => t.rgb == ⟨true, false, true⟩) = true ∧
    nextHas (exec (.cmdLed 0xFFFFFFFF) running) (fun t => t.rgb == ⟨true, true, true⟩) = true := by
  decide

/-- CM-1. -/
theorem test_cmdLed_modulo :
    nextHas (exec (.cmdLed 8) { running with rgb := ⟨true, true, true⟩ })
      (fun t => t.rgb == ⟨false, false, false⟩) = true := by decide

/-- CM-9. -/
theorem test_cmdShutdown :
    nextHas (exec .cmdShutdown running)
      (fun t => t.pc == .halted && t.haltReason == .shutdown && t.out == []) = true := by decide

/-- CM-6. -/
theorem test_cmdNf :
    nextHas (exec .cmdNf { running with stopwatch := 900 })
      (fun t => t.stopwatch == 0 && t.snapshotPending && t.out == []) = true := by decide

/-- CM-7. -/
theorem test_cmdGetknobs :
    nextHas (exec .cmdGetknobs { running with knob := [40, 10, 20, 30, 60, 50], stopwatch := 3 })
      (fun t => t.stopwatch == 3 && !t.snapshotPending && t.out ==
        [⟨"/knobs", [.int 40, .int 10, .int 20, .int 30, .int 60, .int 50]⟩]) = true := by decide

/-- CM-8. -/
theorem test_cmdUnmatched :
    nextHas (exec .cmdUnmatched running) (fun t => t.out == [] && t.pc == running.pc) = true := by
  decide

/-! ### Scheduler (vectors GT-*, BW-*, IN-1, P4) -/

/-- P4, step 1. -/
theorem test_schInit :
    nextHas (exec (.schInit true) base)
      (fun t => t.tbArmed && t.pc == .bootWait .framePoll && idle t) = true := by decide

/-- IN-1. -/
theorem test_schInit_fails :
    nextHas (exec (.schInit false) base)
      (fun t => !t.tbArmed && t.pc == .halted && t.haltReason == .initFailure) = true := by decide

/-- BW-4, the first iteration, and BW-2: the frame is discarded, the indicator advances. -/
theorem test_schBootIter :
    nextHas (exec .schBootIter { base with
        pc := .bootWait .framePoll, cmdRx := [⟨"/led", [.int 3]⟩, ⟨"/ready", []⟩]
        stopwatch := 1001, bootProgress := 2 })
      (fun t => t.cmdRx == [⟨"/ready", []⟩] && t.pc == .bootWait .framePoll && t.rgb == base.rgb &&
        t.stopwatch == 0 && t.bootProgress == 3) = true := by decide

/-- BW-1 and BW-3: the boundary and the cap. -/
theorem test_schBootIter_boundary :
    nextHas (exec .schBootIter { base with
        pc := .bootWait .framePoll, stopwatch := 1000, bootProgress := 2 })
      (fun t => t.stopwatch == 1000 && t.bootProgress == 2) = true ∧
    nextHas (exec .schBootIter { base with
        pc := .bootWait .framePoll, stopwatch := 1001, bootProgress := 5 })
      (fun t => t.stopwatch == 0 && t.bootProgress == 5) = true := by decide

/-- P1 of 95_test_vectors.md. -/
theorem test_schMidiDrain :
    nextHas (exec .schMidiDrain { running with midiRx := [0x90, 0x3C, 0x64, 0x3E, 0x64, 0x3C, 0x00] })
      (fun t => t.midiRx == [] && t.blob == [(7, 0x40#8)] && awaiting 0x90 2 t &&
        t.fired == [.noteOn 1 60 100, .noteOn 1 62 100, .noteOff 1 60 0]) = true := by decide

/-- P4, step 5, and GT-6: at most one frame, and the shutdown ends the iteration. -/
theorem test_schCmdPoll :
    nextHas (exec .schCmdPoll { running with
        pc := .run .cmdPoll, cmdRx := [⟨"/nf", []⟩, ⟨"/led", [.int 1]⟩] })
      (fun t => t.cmdRx == [⟨"/led", [.int 1]⟩] && t.snapshotPending && t.pc == .run .scan) = true ∧
    nextHas (exec .schCmdPoll { running with pc := .run .cmdPoll, cmdRx := [⟨"/shutdown", []⟩] })
      (fun t => t.pc == .halted) = true := by decide

/-- R267. -/
theorem test_schScan :
    nextHas (exec .schScan { running with pc := .run .scan, pins := [true, true] })
      (fun t => t.pc == .run .gate && t.keyGen[1]? == some [.pressed, .pressed]) = true := by decide

/-- GT-3: at 31 ticks the pair goes out. -/
theorem test_schGate_sends :
    nextHas (exec .schGate { running with
        pc := .run .gate, snapshotPending := true, stopwatch := 31, blob := [(7, 0x10)] })
      (fun t => t.out.map (fun f => f.address) == ["/mblob", "/knobs"] && !t.snapshotPending &&
        t.pc == .run .midiDrain) = true := by decide

/-- GT-2: at 30 ticks it does not. -/
theorem test_schGate_holds :
    nextHas (exec .schGate { running with
        pc := .run .gate, snapshotPending := true, stopwatch := 30 })
      (fun t => t.out == [] && t.snapshotPending) = true := by decide

/-- P4, iteration 1: decode, notice, scan, and the gate stays shut. -/
theorem test_schRunIter :
    nextHas (exec .schRunIter { running with
        midiRx := [0x90, 0x3C, 0x64], cmdRx := [⟨"/nf", []⟩], stopwatch := 500 })
      (fun t => t.out.map (fun f => f.address) == ["/mnon"] && t.snapshotPending &&
        t.stopwatch == 0 && t.keyGeneration == 1 && t.pc == .run .midiDrain) = true := by decide

/-- GT-6: SCAN and GATE do not run after a shutdown. -/
theorem test_schRunIter_shutdown :
    nextHas (exec .schRunIter { running with
        cmdRx := [⟨"/shutdown", []⟩], snapshotPending := true, stopwatch := 500 })
      (fun t => t.out == [] && t.keyGeneration == 0 && t.pc == .halted) = true := by decide

/-- R272. -/
theorem test_schShutdown :
    nextHas (exec .schShutdown running)
      (fun t => t.pc == .halted && t.haltReason == .shutdown) = true := by decide

/-- R291: one tick for each event, in the schedule's order; then the foreground's turn. -/
theorem test_step_schedule :
    nextHas (step { running with sched := [.tick, .go, .midiPush 0xF8] })
      (fun t => t.ticks == 1 && t.sched == [.go, .midiPush 0xF8]) = true := by decide

/-- 20_memory.md R72 (2): a tick after the `TB.SW_RESET` of `CMD.NF` and before the flag is set. -/
theorem test_step_tickInNotice :
    nextHas (runSteps 3 { running with
        pc := .run .cmdPoll, cmdRx := [⟨"/nf", []⟩], stopwatch := 900, sched := [.go, .tick] })
      (fun t => t.stopwatch == 1 && t.snapshotPending && t.pc == .run .scan) = true := by decide

/-- 20_memory.md R72 (3): a tick after the `TB.SW_READ` of GATE and before its emission. -/
theorem test_step_tickInGate :
    nextHas (runSteps 3 { running with
        pc := .run .gate, snapshotPending := true, stopwatch := 31, sched := [.go, .tick] })
      (fun t => t.out.map (fun f => f.address) == ["/mblob", "/knobs"] && t.stopwatch == 32 &&
        t.pc == .run .midiDrain) = true := by decide

/-! ### Witnesses: states and operands that meet the hypotheses of each obligation that has any

The name after `witness_` is the obligation's; where its hypotheses differ from clause to clause there
is a witness for each clause, at the ends of the range where there is one. -/

theorem witness_EncodedInstructionDecodes :
    StatusMap.midi.wf = true ∧ encode .midi (.noteOn 15) ≠ [] ∧ encode .midi (.data 127) ≠ [] ∧
      encode .midi .systemReset ≠ [] := by decide

theorem witness_EveryByteIsOneInstruction :
    StatusMap.midi.wf = true ∧ encode .midi (.noteOff 0) = [0x80#8] := by decide

theorem witness_FramesSelectCommands :
    (⟨"/ping", []⟩ : Frame).address ∉ ["/led", "/shutdown", "/nf", "/getknobs"] := by decide

theorem witness_StepRunsDecodedByte :
    ForegroundTurn { running with midiRx := [0xF8], sched := [.go, .tick] }
      { running with midiRx := [0xF8], sched := [.tick] } ∧
    running.sleeping = false ∧ running.pc = .run .midiDrain :=
  ⟨.inr ⟨_, rfl, rfl⟩, rfl, rfl⟩

theorem witness_StepRunsDecodedByte_empty :
    ForegroundTurn running running ∧ running.sleeping = false ∧ running.pc = .run .midiDrain ∧
      running.midiRx = [] :=
  ⟨.inl ⟨rfl, rfl⟩, rfl, rfl, rfl⟩

theorem witness_StepRunsSelectedOperation :
    ForegroundTurn base base ∧ base.sleeping = false ∧ base.pc = .init .start ∧
    base.initOk = true ∧ ({ base with initOk := false } : State).initOk = false ∧
    (∀ f ∈ ([] : List Frame).head?, runCommand base.cfg.routes f ≠ .nf) ∧
    (∀ f ∈ ([⟨"/led", []⟩] : List Frame).head?, runCommand base.cfg.routes f ≠ .nf) ∧
    runCommand base.cfg.routes ⟨"/nf", []⟩ = .nf ∧
    (∃ u, exec .scKnobLatch { running with pc := .run .knobLatch, adcBatchComplete := true } =
      .next u) :=
  ⟨.inl ⟨rfl, rfl⟩, rfl, rfl, rfl, rfl, by decide, by decide, by decide, _, rfl⟩

/-- Each Boot-Wait position on the foreground's turn, the stopwatch at the threshold and one past it, and
the reset still to come after a tick that follows the read. -/
theorem witness_StepRunsSelectedOperation_boot :
    (∀ p : BootStep, let s : State := { base with pc := .bootWait p }
      ForegroundTurn s s ∧ s.sleeping = false) ∧
    ({ base with cmdRx := [⟨"/ready", []⟩] } : State).cmdRx = ⟨"/ready", []⟩ :: [] ∧
    (⟨"/nf", []⟩ : Frame).address ≠ "/ready" ∧
    base.cfg.bootStallThreshold < 1001 ∧ ¬ base.cfg.bootStallThreshold < 1000 :=
  ⟨fun _ => ⟨.inl ⟨rfl, rfl⟩, rfl⟩, rfl, by decide, by decide, by decide⟩

/-- R72 (2), (3): a tick between the read and the reset of the stall check is undone by the reset, one
after the reset counts. -/
theorem test_step_tickInStallCheck :
    nextHas (runSteps 4 { base with
        pc := .bootWait .stallCheck, tbArmed := true, stopwatch := 1001
        sched := [.go, .tick, .go, .tick] })
      (fun t => t.pc == .bootWait .stallShow && t.stopwatch == 1) = true := by decide

theorem witness_StepRunsSelectedOperation_gate :
    (let s : State := { running with pc := .run .gate, snapshotPending := true, stopwatch := 31 }
     ForegroundTurn s s ∧ s.sleeping = false ∧ s.cfg.gateThreshold < s.stopwatch) ∧
    (let s : State := { running with pc := .run .gateSend, snapshotPending := true }
     ForegroundTurn s s ∧ s.sleeping = false) :=
  ⟨⟨.inl ⟨rfl, rfl⟩, rfl, by decide⟩, .inl ⟨rfl, rfl⟩, rfl⟩

theorem witness_MdByteIsItsRow : running.cfg.status.wf = true := by decide

/-- A push with one place left, and one with none. -/
theorem witness_InputsLandOnTheirPorts_midi :
    ({ small with midiRx := [0] } : State).midiRx.length < small.cfg.rxCap ∧
    small.cfg.rxCap ≤ ({ small with midiRx := [0, 0] } : State).midiRx.length := by decide

theorem witness_InputsLandOnTheirPorts_ports :
    [true, false].length = base.cfg.nKeys ∧
    [4095#31, 0, 0, 0, 0, 0, 0].length = base.cfg.nAdc ∧
    (∀ v ∈ [4095#31, 0, 0, 0, 0, 0, 0], v.toNat < 2 ^ base.cfg.wSample) ∧
    6 < base.cfg.nAdc ∧ (4095#31).toNat < 2 ^ base.cfg.wSample := by
  simp [base, State.resetOf, Config.illustrative]

/-- The inputs next to those: one pin too many, one sample too few, a channel that does not exist, a
sample one bit too wide. -/
theorem witness_InputsLandOnTheirPorts_impossible :
    ¬ Event.possible base.cfg (.pins [true, false, true]) ∧
    ¬ Event.possible base.cfg (.adcBatch [0, 0, 0, 0, 0, 0]) ∧
    ¬ Event.possible base.cfg (.adcWrite 7 0) ∧ ¬ Event.possible base.cfg (.adcWrite 6 4096) := by
  simp only [Event.possible]; decide

theorem witness_TickUpdatesCounters :
    ({ running with sched := [.tick] } : State).sched = .tick :: [] ∧ running.tbArmed = true ∧
      base.tbArmed = false := by decide

theorem witness_TimebaseOperations :
    (0 < 1 ∧ 1 < 2 ^ base.cfg.wCountdown) ∧
    (0 < 2 ^ 32 - 1 ∧ 2 ^ 32 - 1 < 2 ^ base.cfg.wCountdown) ∧ 2 ^ base.cfg.wCountdown ≤ 2 ^ 32 := by
  simp [base, State.resetOf, Config.illustrative]

theorem witness_SleepLastsItsTicks :
    0 < 3 ∧ 3 < 2 ^ running.cfg.wCountdown ∧ 0 ≤ 3 ∧ 3 ≤ 3 ∧ running.tbArmed = true := by
  simp [running, base, State.resetOf, Config.illustrative]

theorem witness_StopwatchCountsTicks : running.tbArmed = true := rfl

theorem witness_OnlyTicksMoveCounters :
    ∃ t, step { running with sched := [.go] } = .next t ∧
      ∀ m, ({ running with sched := [.go] } : State).sched ≠ .tick :: m :=
  ⟨_, rfl, by intro m; simp⟩

/-- The first row and the last. -/
theorem witness_StatusBytesAwaitArguments :
    running.mode = .normal ∧ running.cfg.status = .midi ∧
    ((.noteOff 15, 2, 0x80#8 + (15#4).setWidth 8) : Instr × Nat × Byte) ∈
      [((.noteOff 15, 2, 0x80#8 + (15#4).setWidth 8) : Instr × Nat × Byte), (.songSelect, 1, 0xF3#8)] ∧
    ((.songSelect, 1, 0xF3#8) : Instr × Nat × Byte) ∈
      [((.noteOff 15, 2, 0x80#8 + (15#4).setWidth 8) : Instr × Nat × Byte), (.songSelect, 1, 0xF3#8)] := by
  decide

theorem witness_PassthroughForwards :
    ({ running with mode := .passthrough } : State).mode = .passthrough ∧
      encode running.cfg.status .tuneRequest = [0xF6#8] ∧ Instr.tuneRequest ≠ .vendorEnd ∧
      encode running.cfg.status .clock = [0xF8#8] ∧ Instr.clock ≠ .vendorEnd := by decide

theorem witness_TransportBytes : running.cfg.wf = true ∧ running.mode = .normal := by decide

theorem witness_BytesThatOnlyGoIdle : running.mode = .normal := rfl

theorem witness_VendorMarkers : running.mode = .normal := rfl

/-- A data byte in `Idle`, one before the last, and the last one of a message that is filtered out. -/
theorem witness_DataByteFraming :
    running.mode = .normal ∧ running.pendingEvent = none ∧
    (({ partWay 0x90 60 2 with bytesReceived := 0 } : State).pendingEvent = some 0x90 ∧
      ({ partWay 0x90 60 2 with bytesReceived := 0 } : State).bytesReceived + 1 ≠
        (partWay 0x90 60 2).bytesNeeded) ∧
    (Completing { partWay 0x90 60 2 with channelFilter := 2 } 0x90 ∧
      ¬ FilterPasses { partWay 0x90 60 2 with channelFilter := 2 } 0x90) := by
  simp only [Completing, FilterPasses]; decide

/-- Both note classes, with the filter off and with the filter at the channel. -/
theorem witness_CompletedNoteMessage :
    (Completing (partWay 0x80 60 2) 0x80 ∧ FilterPasses (partWay 0x80 60 2) 0x80 ∧
      classify .midi 0x80#8 = .noteOff) ∧
    (Completing { partWay 0x9F 127 2 with channelFilter := 16 } 0x9F ∧
      FilterPasses { partWay 0x9F 127 2 with channelFilter := 16 } 0x9F ∧
      classify .midi 0x9F#8 = .noteOn) := by
  simp only [Completing, FilterPasses]; decide

theorem witness_CompletedControlOrProgram :
    (Completing (partWay 0xB2 7 2) 0xB2 ∧ FilterPasses (partWay 0xB2 7 2) 0xB2 ∧
      classify .midi 0xB2#8 = .controlChange) ∧
    (Completing (partWay 0xC5 0 1) 0xC5 ∧ FilterPasses (partWay 0xC5 0 1) 0xC5 ∧
      classify .midi 0xC5#8 = .programChange) := by
  simp only [Completing, FilterPasses]; decide

/-- The five classes; the two system classes with a filter that blocks every channel. -/
theorem witness_CompletedSilentMessage :
    (Completing (partWay 0xA0 60 2) 0xA0 ∧ FilterPasses (partWay 0xA0 60 2) 0xA0 ∧
      classify .midi 0xA0#8 = .polyPressure) ∧
    (Completing (partWay 0xD0 0 1) 0xD0 ∧ FilterPasses (partWay 0xD0 0 1) 0xD0 ∧
      classify .midi 0xD0#8 = .channelPressure) ∧
    (Completing (partWay 0xE0 0 2) 0xE0 ∧ FilterPasses (partWay 0xE0 0 2) 0xE0 ∧
      classify .midi 0xE0#8 = .pitchBend) ∧
    (Completing { partWay 0xF2 1 2 with channelFilter := 17 } 0xF2 ∧
      FilterPasses { partWay 0xF2 1 2 with channelFilter := 17 } 0xF2 ∧
      classify .midi 0xF2#8 = .songPosition) ∧
    (Completing { partWay 0xF3 0 1 with channelFilter := 17 } 0xF3 ∧
      FilterPasses { partWay 0xF3 0 1 with channelFilter := 17 } 0xF3 ∧
      classify .midi 0xF3#8 = .songSelect) := by
  simp only [Completing, FilterPasses]; decide

/-- Met in the middle of another message, for both classes. -/
theorem witness_RunningStatusNotes :
    let s : State := { partWay 0xC5 0 1 with midiRx := [0x90, 60, 100, 62, 0, 0xF8] }
    let u : State := { s with midiRx := [0x8F, 60, 100, 62, 0] }
    s.cfg.status.wf = true ∧ s.sched = [] ∧ s.sleeping = false ∧ s.pc = .run .midiDrain ∧
      s.mode = .normal ∧ encode s.cfg.status (.noteOn 0) = [0x90#8] ∧
      s.midiRx = [0x90#8, (60#7).setWidth 8, (100#7).setWidth 8, (62#7).setWidth 8,
        (0#7).setWidth 8] ++ [0xF8#8] ∧
      encode u.cfg.status (.noteOff 15) = [0x8F#8] ∧
      u.midiRx = [0x8F#8, (60#7).setWidth 8, (100#7).setWidth 8, (62#7).setWidth 8,
        (0#7).setWidth 8] ++ [] := by decide

/-- A class with arguments, a zero-argument class, an unlisted byte, and both markers. -/
theorem witness_StatusByteDiscardsPartialMessage :
    (partWay 0x90 60 2).cfg.status.wf = true ∧ (partWay 0x90 60 2).mode = .normal ∧
      (encode .midi (.noteOff 0) = [128#8] ∧ 128 ≤ (128#8).toNat ∧
        (classify .midi 128#8).kind = .withArgs 2) ∧
      (encode .midi .systemReset = [255#8] ∧ 128 ≤ (255#8).toNat ∧
        (classify .midi 255#8).kind = .immediate) ∧
      (encode .midi .unlistedF1 = [0xF1#8] ∧ (classify .midi 0xF1#8).kind = .unlisted) ∧
      (encode .midi .vendorStart = [0xF0#8] ∧ classify .midi 0xF0#8 = .vendorStart) ∧
      (encode .midi .vendorEnd = [0xF7#8] ∧ classify .midi 0xF7#8 = .vendorEnd) := by decide

theorem witness_AdvanceSyncCountsModulo24 : base.cfg.wf = true ∧ (blobRead base 21).toNat = 0 := by decide

theorem witness_SnapshotReturnsTheBlob : base.cfg.wf = true := by decide

/-- A note message that completes in the drain. -/
theorem witness_OnlyDecoderChangesBlob :
    nextHas (step { partWay 0x90 60 2 with midiRx := [100] }) (fun t => t.blob != []) = true := by
  decide

/-- The gate of a build that clears the blob. -/
theorem witness_OnlyDecoderChangesBlob_cleared :
    nextHas (step { running with
        cfg := { Config.illustrative with snapshotClears := true }
        pc := .run .gateSend, snapshotPending := true, blob := [(0, 1)] })
      (fun t => t.blob != [(0, 1#8)]) = true := by decide

theorem witness_KeyScanDebounces : base.cfg.wf = true ∧ base.keyGen.length = 4 := by decide

/-- The last key index; four pressed readings, and one released reading among them. -/
theorem witness_KeyPressNeedsFourCycles :
    base.cfg.wf = true ∧ base.keyGen.length = 4 ∧ 1 < base.keyLast.length ∧
    (∀ p ∈ [[false, true], [true, true], [false, true], [false, true]],
      p[1]? = some base.cfg.keyPressedLevel) ∧
    (∃ p ∈ [[false, true], [true, false], [false, true], [false, true]],
      p[1]? = some (!base.cfg.keyPressedLevel)) := by decide

/-- No batch; a batch with the highest channel present; a buffer one sample too short. -/
theorem witness_KnobLatchCopiesTheBatch :
    base.adcBatchComplete = false ∧
    (({ base with adcBatchComplete := true } : State).adcBatchComplete = true ∧
      base.cfg.fsChannel < base.adcSample.length ∧
      (∀ c ∈ base.cfg.knobMap, c < base.adcSample.length)) ∧
    ({ base with adcSample := List.replicate 6 0 } : State).adcSample.length ≤
      base.cfg.fsChannel := by decide

/-- A buffer that ends just below the highest knob channel. -/
theorem witness_KnobLatchCopiesTheBatch_knob :
    ∃ c ∈ Config.illustrative.knobMap, (List.replicate 5 (0 : Sample)).length ≤ c := by decide

theorem witness_FootSwitchPoll :
    base.cfg.wf = true ∧ base.fsBuf.length = 2 ∧ base.fsSlot < 2 := by decide

/-- The three ways an alternation can start, the first poll of vector FS-3b among them, and a sustained
low value. -/
theorem witness_FootSwitchDebounces :
    base.cfg.wf = true ∧ base.fsBuf.length = 2 ∧ base.fsSlot < 2 ∧
    (∀ (i : Nat) (v : Sample), [(3001 : Sample), 999][i]? = some v →
      if (if i % 2 = 0 then Contact.released else .pressed) = .pressed then
        v.toNat < base.cfg.fsLow
      else base.cfg.fsHigh < v.toNat) ∧
    base.fsBuf[1 - base.fsSlot]? ≠ some .pressed ∧ base.fsLast = .released ∧
    (let s : State := { base with fsBuf := [.released, .pressed] }
     s.fsBuf[1 - s.fsSlot]? = some .pressed ∧ s.fsLast ≠ .pressed) ∧
    (∀ v ∈ [(999 : Sample), 0], v.toNat < base.cfg.fsLow) ∧ 2 ≤ [(999 : Sample), 0].length := by
  refine ⟨by decide, by decide, by decide, ?_, by decide, by decide, by decide, ?_, by decide⟩
  · intro i v h
    match i with
    | 0 => cases h; decide
    | 1 => cases h; decide
    | _ + 2 => simp at h
  · simp [base, State.resetOf, Config.illustrative]

theorem witness_ScanCycleIsKeysThenKnobs :
    base.cfg.wf = true ∧ base.adcSample.length = base.cfg.nAdc := by decide

theorem witness_LedColour : (8#32).toNat % 8 = (0#32).toNat % 8 := by decide

theorem witness_ShutdownHalts :
    (Instr.cmdShutdown = .cmdShutdown ∨ Instr.cmdShutdown = .schShutdown) ∧
    (Instr.schShutdown = .cmdShutdown ∨ Instr.schShutdown = .schShutdown) ∧
    base.cfg.hasDisplay = true ∧
    ({ base with cfg := { Config.illustrative with hasDisplay := false } } : State).cfg.hasDisplay =
      false := by decide

/-- The ready signal; another frame or none; the stopwatch at the threshold and one past it. -/
theorem witness_BootIteration :
    (⟨"/ready", [.int 1]⟩ : Frame).address = "/ready" ∧
    (∀ f ∈ ([⟨"/nf", []⟩] : List Frame).head?, f.address ≠ "/ready") ∧
    (∀ f ∈ base.cmdRx.head?, f.address ≠ "/ready") ∧
    base.cfg.bootStallThreshold < 1001 ∧
    1000 ≤ base.cfg.bootStallThreshold := by decide

theorem witness_CmdPollRoutesOneFrame :
    base.cmdRx = [] ∧
    ({ base with cmdRx := [⟨"/shutdown", []⟩] } : State).cmdRx = ⟨"/shutdown", []⟩ :: [] := by decide

/-- The stopwatch at the threshold and one past it. -/
theorem witness_GateSendsThePair :
    running.cfg.wf = true ∧
    (({ running with snapshotPending := true } : State).snapshotPending = true ∧
      running.cfg.gateThreshold < 31) ∧
    running.snapshotPending = false ∧ 30 ≤ running.cfg.gateThreshold := by decide

theorem witness_RunIterationIsItsFourSteps :
    running.cfg.wf = true ∧ running.adcSample.length = running.cfg.nAdc := by decide

/-- Both ends of the iteration: halted after CMD_POLL, and not. -/
theorem witness_RunIterationIsItsFourSteps_ends :
    (∃ u, execAll [.schMidiDrain, .schCmdPoll] { running with cmdRx := [⟨"/shutdown", []⟩] } =
      .next u ∧ u.pc = .halted) ∧
    (∃ u, execAll [.schMidiDrain, .schCmdPoll] running = .next u ∧ u.pc ≠ .halted) :=
  ⟨⟨_, rfl, rfl⟩, ⟨_, rfl, by decide⟩⟩

/-- An iteration that takes a notice, one that sends, one that does neither, at the threshold. -/
theorem witness_RunIterationIsStepByStep :
    (let s : State := { running with midiRx := [0x90, 60, 100], cmdRx := [⟨"/nf", []⟩] }
     s.cfg.status.wf = true ∧ s.sched = [] ∧ s.sleeping = false ∧ s.pc = .run .midiDrain ∧
     s.cmdRx = ⟨"/nf", []⟩ :: [] ∧ runCommand s.cfg.routes ⟨"/nf", []⟩ = .nf) ∧
    (let s : State := { running with snapshotPending := true, stopwatch := 31 }
     s.sched = [] ∧ s.sleeping = false ∧ s.pc = .run .midiDrain ∧
     s.snapshotPending = true ∧ s.cfg.gateThreshold < s.stopwatch) ∧
    (let s : State := { running with snapshotPending := true, stopwatch := 30 }
     s.sched = [] ∧ s.sleeping = false ∧ s.pc = .run .midiDrain ∧ s.cmdRx = [] ∧
     s.stopwatch ≤ s.cfg.gateThreshold) := by decide

theorem witness_BootIterationIsStepByStep :
    (let s : State := { base with pc := .bootWait .framePoll, stopwatch := 1001 }
     s.sched = [] ∧ s.sleeping = false ∧ s.pc = .bootWait .framePoll ∧
     (∀ f ∈ s.cmdRx.head?, f.address ≠ "/ready") ∧ s.cfg.bootStallThreshold < s.stopwatch) ∧
    (let s : State := { base with
       pc := .bootWait .framePoll, stopwatch := 1000, cmdRx := [⟨"/nf", []⟩] }
     s.sched = [] ∧ s.sleeping = false ∧ (∀ f ∈ s.cmdRx.head?, f.address ≠ "/ready") ∧
     s.stopwatch ≤ s.cfg.bootStallThreshold) ∧
    (⟨"/ready", []⟩ : Frame).address = "/ready" := by decide

/-- The emission; the read that leads to it; a tick between the two. -/
theorem witness_NoUnsolicitedSnapshot :
    nextHas (step { running with pc := .run .gateSend, snapshotPending := true })
      (fun t => decide (countFrames "/mblob" t.out ≠ 0)) = true ∧
    countFrames "/mblob" running.out = 0 ∧
    nextHas (step { running with pc := .run .gate, snapshotPending := true, stopwatch := 31 })
      (fun t => t.pc == .run .gateSend) = true ∧
    nextHas (step { running with pc := .run .gateSend, snapshotPending := true, sched := [.tick] })
      (fun t => t.pc == .run .gateSend) = true ∧
    SendingIsPending { running with pc := .run .gateSend, snapshotPending := true } :=
  ⟨by decide, by decide, by decide, by decide, fun _ => rfl⟩

/-- The step that takes a notice, and the emission. -/
theorem witness_SnapshotsNeverExceedNotices :
    nextHas (step { running with pc := .run .cmdPoll, cmdRx := [⟨"/nf", []⟩] })
      (fun t => pendingCount t == 1 && t.cmdRx == []) = true ∧
    SendingIsPending { running with pc := .run .cmdPoll, cmdRx := [⟨"/nf", []⟩] } ∧
    SendingIsPending { running with pc := .run .gateSend, snapshotPending := true } := by
  simp only [SendingIsPending]; decide

theorem witness_PhasesOnlyAdvance :
    ∃ t, step { base with pc := .init .decoder } = .next t ∧ t.phase = .bootWait := ⟨_, rfl, rfl⟩

/-- A turn of the foreground, and a byte that arrives when the buffer has one place left; a full buffer
and a move that is no push. -/
theorem witness_HaltedIsFinal :
    let s : State := { small with
      pc := .halted, haltReason := .shutdown, midiRx := [0], sched := [.midiPush 1] }
    s.pc = .halted ∧ s.sleeping = false ∧
      (∀ b m, s.sched = .midiPush b :: m → s.midiRx.length < s.cfg.rxCap) ∧
      (∀ b m, ({ s with midiRx := [0, 0], sched := [.tick] } : State).sched = .midiPush b :: m →
        [0#8, 0#8].length < s.cfg.rxCap) ∧
      ForegroundTurn { s with sched := [] } { s with sched := [] } ∧ ∃ t, step s = .next t :=
  ⟨rfl, rfl, fun _ _ _ => by decide, fun _ _ h => by simp at h, .inl ⟨rfl, rfl⟩, _, rfl⟩

theorem witness_BootWaitOnlyWaits :
    let s : State := { base with pc := .bootWait .framePoll, midiRx := [0x90] }
    s.phase = .bootWait ∧ (∀ b m, s.sched = .midiPush b :: m → s.midiRx.length < s.cfg.rxCap) ∧
      (∀ b m, ({ s with sched := [.midiPush 0] } : State).sched = .midiPush b :: m →
        s.midiRx.length < s.cfg.rxCap) ∧ ∃ t, step s = .next t :=
  ⟨rfl, fun _ _ _ => by decide, fun _ _ _ => by decide, _, rfl⟩

theorem witness_OutputsOnlyGrow :
    nextHas (step { running with midiRx := [0xF7] }) (fun t => t.passthroughSink == [.exit]) = true := by
  decide

theorem witness_ConstantsStay :
    running.phase ≠ .init ∧ ∃ t, step running = .next t := ⟨by decide, _, rfl⟩

/-- A state in the middle of a message, with a note held, a snapshot pending and an input to come. -/
def midway : State :=
  { partWay 0x90 60 2 with
    blob := [(7, 0x10)], snapshotPending := true, midiRx := [100]
    sched := [.midiPush 0xF8, .pins [true, false], .adcWrite 6 4095] }

theorem midway_decoder : DecoderInv midway where
  idle := by decide
  awaiting := by
    intro e he
    obtain rfl : 0x90#8 = e := Option.some.inj he
    decide
  passthrough := by decide
  lastData := by decide

theorem midway_timebase : TimebaseInv midway where
  ticks := Nat.two_pow_pos _
  countdown := Nat.two_pow_pos _
  stopwatch := Nat.two_pow_pos _

theorem midway_blob : BlobInv midway where
  canonical := by decide
  inside := by decide
  sync := by decide
  controllers := by
    intro a h1 h2
    have hr : blobRead midway a = if a = 7 then 0x10#8 else 0#8 := rfl
    rw [hr, if_neg (by omega)]
    decide
  program := by decide

theorem midway_scanner : ScannerInv midway where
  pins := by decide
  keyLast := by decide
  generations := by decide
  keyGen := by decide
  generation := by decide
  slots := by decide
  slot := by decide
  knobs := by decide
  samples := by decide
  sampleWidth := by
    intro v hv
    obtain rfl : v = 0 := List.eq_of_mem_replicate (n := 7) hv
    exact Nat.two_pow_pos _
  knobWidth := by
    intro v hv
    obtain rfl : v = 0 := List.eq_of_mem_replicate (n := 6) hv
    exact Nat.two_pow_pos _

theorem midway_scheduler : SchedulerInv midway where
  halt := by decide
  armed := by decide
  progress := by decide
  pending := by decide
  sending := by decide
  capacity := by decide
  silent := by decide
  filter := by decide

theorem midway_inv : Inv midway where
  config := by decide
  timebase := midway_timebase
  decoder := midway_decoder
  blob := midway_blob
  scanner := midway_scanner
  scheduler := midway_scheduler

theorem witness_StepKeepsInvariant : Inv midway ∧ ∃ t, step midway = .next t :=
  ⟨midway_inv, _, rfl⟩

theorem witness_ResetMeetsInvariant : Config.illustrative.wf = true := by decide

theorem witness_StepNeverTraps : Inv midway ∧ midway.inputsPossible := by
  refine ⟨midway_inv, ?_⟩
  intro e he
  simp only [midway, List.mem_cons, List.not_mem_nil, or_false] at he
  rcases he with rfl | rfl | rfl
  · trivial
  · exact (by decide : [true, false].length = midway.cfg.nKeys)
  · exact (by decide : 6 < midway.cfg.nAdc ∧ (4095 : Sample).toNat < 2 ^ midway.cfg.wSample)

end Sys2Proof.Tests
end

section
/-! PROOFS. The ports of 00_scope.md R6, R7 and the absence of traps, R12: which moves the environment's
ports carry and what they leave, and why every action of the foreground gives a next state. -/

namespace Sys2Proof.Machine

/-! ### Inputs at the ports -/

theorem sampleFits_iff (c : Config) (v : Sample) : sampleFits c v = true ↔ v.toNat < 2 ^ c.wSample :=
  decide_eq_true_iff

theorem all_sampleFits_iff (c : Config) (l : List Sample) :
    l.all (sampleFits c) = true ↔ ∀ v ∈ l, v.toNat < 2 ^ c.wSample := by
  simp only [List.all_eq_true, sampleFits_iff]

theorem environment_pins {l : List Bool} {s : State} (hl : l.length = s.cfg.nKeys) :
    environment (.pins l) s = .next { s with pins := l } :=
  if_pos hl

theorem environment_adcBatch {l : List Sample} {s : State} (hl : l.length = s.cfg.nAdc)
    (hv : ∀ v ∈ l, v.toNat < 2 ^ s.cfg.wSample) :
    environment (.adcBatch l) s = .next { s with adcSample := l, adcBatchComplete := true } :=
  if_pos ⟨hl, (all_sampleFits_iff s.cfg l).mpr hv⟩

theorem environment_adcWrite {c : Nat} {v : Sample} {s : State} (hc : c < s.cfg.nAdc)
    (hv : v.toNat < 2 ^ s.cfg.wSample) :
    environment (.adcWrite c v) s = .next { s with adcSample := s.adcSample.set c v } :=
  if_pos ⟨hc, (sampleFits_iff s.cfg v).mpr hv⟩

theorem environment_midiPush_room {b : Byte} {s : State} (h : s.midiRx.length < s.cfg.rxCap) :
    environment (.midiPush b) s = .next { s with midiRx := s.midiRx ++ [b] } := by
  simp only [environment, pushMidi, if_pos h]

/-- A push onto a full buffer leaves some content within the capacity (D30, log 13). -/
theorem pushMidi_full_length {b : Byte} {s : State} (h : s.cfg.rxCap ≤ s.midiRx.length) :
    (pushMidi b s).midiRx.length ≤ s.cfg.rxCap := by
  rcases pushMidi_length b s with ⟨hroom, _⟩ | ⟨_, hlen⟩
  · omega
  · exact hlen

/-- Every input that the ports can carry is taken. -/
theorem environment_possible {e : Event} {s : State} (h : e.possible s.cfg) :
    ∃ t, environment e s = .next t := by
  cases e with
  | go => exact ⟨_, rfl⟩
  | tick => exact ⟨_, rfl⟩
  | midiPush b => exact ⟨_, rfl⟩
  | framePush f => exact ⟨_, rfl⟩
  | pins l => exact ⟨_, environment_pins h⟩
  | adcBatch l => exact ⟨_, environment_adcBatch h.1 h.2⟩
  | adcWrite c v => exact ⟨_, environment_adcWrite h.1 h.2⟩

/-- Every other input is refused (log 27). -/
theorem environment_impossible {e : Event} {s : State} (h : ¬ e.possible s.cfg) :
    environment e s = .refused .impossibleInput := by
  cases e with
  | go => exact absurd trivial h
  | tick => exact absurd trivial h
  | midiPush b => exact absurd trivial h
  | framePush f => exact absurd trivial h
  | pins l => exact if_neg h
  | adcBatch l => exact if_neg fun ⟨hl, hv⟩ => h ⟨hl, (all_sampleFits_iff s.cfg l).mp hv⟩
  | adcWrite c v => exact if_neg fun ⟨hc, hv⟩ => h ⟨hc, (sampleFits_iff s.cfg v).mp hv⟩

/-! ### No action of the foreground traps -/

/-- Under the invariant the sample buffer has every channel that the knob latch reads (D24). -/
theorem channelsPresent_of_inv {s : State} (h : Inv s) : channelsPresent s = true := by
  obtain ⟨_, _, hmap, _, _, hfs, _⟩ := Config.wf_analog h.config
  rw [← h.scanner.samples] at hmap hfs
  simpa [channelsPresent] using And.intro hmap hfs

theorem knobLatch_next {s : State} (h : channelsPresent s = true) : ∃ t, knobLatch s = .next t := by
  rcases knobLatch_cases s with ⟨_, hs⟩ | ⟨_, _, hs⟩ | ⟨_, habsent, _⟩
  · exact ⟨_, hs⟩
  · exact ⟨_, hs⟩
  · simp [h] at habsent

theorem framePoll_next (s : State) : ∃ t, framePoll s = .next t := by
  unfold framePoll
  split
  · exact ⟨_, rfl⟩
  · exact runStrobe_next _ _

theorem cmdPoll_next (s : State) : ∃ t, cmdPoll s = .next t := by
  unfold cmdPoll
  split
  · exact ⟨_, rfl⟩
  · next f rest _ =>
    obtain ⟨u, hu⟩ := runStrobe_next (runCommand s.cfg.routes f)
      { s with cmdRx := rest, pc := .run .cmdPoll }
    exact ⟨afterCommand u, by rw [hu, andThen_next]⟩

theorem pollAction_next (s : State) : ∃ t, pollAction s = .next t := by
  unfold pollAction
  split
  · exact ⟨_, rfl⟩
  · exact cmdPoll_next s

theorem drainAction_next (s : State) : ∃ t, drainAction s = .next t := by
  unfold drainAction
  split
  · exact ⟨_, rfl⟩
  · next b rest _ =>
    obtain ⟨t, ht, _⟩ := row_effect s.cfg.status b { s with midiRx := rest }
    exact ⟨t, ht⟩

theorem initAction_next (p : InitStep) (s : State) : ∃ t, initAction p s = .next t := by
  cases p <;> exact ⟨_, rfl⟩

theorem bootAction_next (p : BootStep) (s : State) : ∃ t, bootAction p s = .next t := by
  cases p with
  | framePoll => exact framePoll_next s
  | stallCheck => exact ⟨_, rfl⟩
  | stallReset => exact ⟨_, rfl⟩
  | stallShow => exact ⟨_, rfl⟩

theorem runAction_next (p : RunStep) {s : State} (h : channelsPresent s = true) :
    ∃ t, runAction p s = .next t := by
  cases p with
  | midiDrain => exact drainAction_next s
  | cmdPoll => exact pollAction_next s
  | nfArm => exact ⟨_, rfl⟩
  | scan => exact ⟨_, rfl⟩
  | knobLatch =>
    obtain ⟨u, hu⟩ := knobLatch_next h
    exact ⟨{ u with pc := .run .gate }, andThen_eq_next.mpr ⟨u, hu, rfl⟩⟩
  | gate => exact ⟨_, rfl⟩
  | gateSend => exact ⟨_, rfl⟩

/-- The latch's read of an absent channel is the only thing that could stop the foreground. -/
theorem foreground_next {s : State} (h : channelsPresent s = true) : ∃ t, foreground s = .next t := by
  unfold foreground
  split
  · exact ⟨_, rfl⟩
  · split
    · exact initAction_next _ s
    · exact bootAction_next _ s
    · exact runAction_next _ h
    · exact ⟨_, rfl⟩

/-- Settles O59: a turn of the foreground reads only channels that exist, and a scheduled input is one
that its port takes. -/
theorem stepNeverTraps : Obligations.StepNeverTraps := by
  intro s hinv hinputs
  have hchannels : channelsPresent s = true := channelsPresent_of_inv hinv
  rcases step_cases s with ⟨m, hstep⟩ | ⟨e, m, hsched, _, hstep⟩
  · rw [hstep]
    exact foreground_next hchannels
  · rw [hstep]
    have he : e.possible s.cfg := hinputs e (by simp [hsched])
    exact environment_possible he

/-- Settles O8: each input is the head of the schedule, so the step is the environment's move on the
state without it. -/
theorem inputsLandOnTheirPorts : Obligations.InputsLandOnTheirPorts := by
  intro s m
  refine ⟨?framePush, ?midiRoom, ?midiFull, ?pins, ?adcBatch, ?adcWrite, ?impossible⟩
  case framePush =>
    intro f hs
    exact nextMove_environment hs nofun
  case midiRoom =>
    intro b hs hroom
    exact (nextMove_environment hs nofun).trans (environment_midiPush_room hroom)
  case midiFull =>
    intro b hs hfull
    exact ⟨_, nextMove_environment hs nofun, pushMidi_full_length hfull, pushMidi_frame b _⟩
  case pins =>
    intro l hs hl
    exact (nextMove_environment hs nofun).trans (environment_pins hl)
  case adcBatch =>
    intro l hs hl hv
    exact (nextMove_environment hs nofun).trans (environment_adcBatch hl hv)
  case adcWrite =>
    intro c v hs hc hv
    exact (nextMove_environment hs nofun).trans (environment_adcWrite hc hv)
  case impossible =>
    intro e hs he
    have hgo : e ≠ .go := fun h => he (h ▸ trivial)
    exact (nextMove_environment hs hgo).trans (environment_impossible he)

end Sys2Proof.Machine
end

section
/-! PROOFS. The state after reset: the table of 10_state.md R50, and the invariant in it. -/

namespace Sys2Proof.Machine

theorem resetOf_blobRead (c : Config) (a : Nat) : blobRead (State.resetOf c) a = 0#8 :=
  Memory.read_nil a

theorem resetOf_timebase (c : Config) : TimebaseInv (State.resetOf c) where
  ticks := Nat.two_pow_pos _
  countdown := Nat.two_pow_pos _
  stopwatch := Nat.two_pow_pos _

theorem resetOf_decoder (c : Config) : DecoderInv (State.resetOf c) where
  idle := fun _ => ⟨rfl, rfl⟩
  awaiting := nofun
  passthrough := nofun
  lastData := Nat.zero_lt_succ 127

/-- The zeroed blob: every byte reads 0, which is in every range of R199. -/
theorem BlobInv.of_nil {s : State} (h : s.blob = []) : BlobInv s where
  canonical := by rw [h]; exact Memory.wf_nil
  inside := by rw [h]; exact Memory.within_nil _
  sync := by simp [blobRead, h, Memory.read_nil]
  controllers := by simp [blobRead, h, Memory.read_nil]
  program := by simp [blobRead, h, Memory.read_nil]

theorem resetOf_scanner {c : Config} (h : c.wf = true) : ScannerInv (State.resetOf c) where
  pins := List.length_replicate
  keyLast := List.length_replicate
  generations := List.length_replicate
  keyGen := by
    intro g hg
    rw [List.eq_of_mem_replicate hg]
    exact List.length_replicate
  generation := by
    have hgens : c.keyGenerations = 4 := Config.wf_keyGenerations h
    simp [State.resetOf, hgens]
  slots := List.length_replicate
  slot := by
    have hslots : c.fsSlots = 2 := Config.wf_fsSlots h
    simp [State.resetOf, hslots]
  knobs := List.length_replicate
  samples := List.length_replicate
  sampleWidth := by
    intro v hv
    rw [List.eq_of_mem_replicate hv]
    exact Nat.two_pow_pos _
  knobWidth := by
    intro v hv
    rw [List.eq_of_mem_replicate hv]
    exact Nat.two_pow_pos _

theorem resetOf_scheduler (c : Config) : SchedulerInv (State.resetOf c) where
  halt := by simp [State.resetOf]
  armed := by simp [State.resetOf, State.phase, Pc.phase]
  progress := Nat.zero_le _
  pending := nofun
  sending := nofun
  capacity := Nat.zero_le _
  silent := fun _ => rfl
  filter := rfl

theorem resetOf_inv {c : Config} (h : c.wf = true) : Inv (State.resetOf c) where
  config := h
  timebase := resetOf_timebase c
  decoder := resetOf_decoder c
  blob := .of_nil rfl
  scanner := resetOf_scanner h
  scheduler := resetOf_scheduler c

/-- Settles O58: every legal configuration's power-on state meets the invariant, and the unknown
device is legal. -/
theorem resetMeetsInvariant : Obligations.ResetMeetsInvariant :=
  ⟨resetOf_inv Config.device_wf, fun _ => resetOf_inv⟩

/-- Settles O60: the ring, the last-reported states, the knobs and the foot-switch buffer are
uniform lists of their lengths, the blob lists no cell, and the rest is read off. -/
theorem resetValues : Obligations.ResetValues := by
  intro c s
  have hring : ∀ g ∈ s.keyGen, ∀ i, i < c.nKeys → g[i]? = some .released := by
    intro g hg i hi
    rw [List.eq_of_mem_replicate hg]
    exact List.getElem?_replicate_of_lt hi
  have hlast : ∀ i, i < c.nKeys → s.keyLast[i]? = some .released := fun _ =>
    List.getElem?_replicate_of_lt
  have hknob : ∀ k, k < c.nKnobs → s.knob[k]? = some 0 := fun _ =>
    List.getElem?_replicate_of_lt
  have hbuf : ∀ k, k < c.fsSlots → s.fsBuf[k]? = some .released := fun _ =>
    List.getElem?_replicate_of_lt
  exact ⟨rfl, rfl, rfl, rfl, rfl, rfl, rfl, rfl, rfl, rfl, resetOf_blobRead c,
    List.length_replicate, hring, hlast, rfl, hknob, rfl, hbuf, rfl, rfl, rfl, rfl, rfl, rfl, rfl,
    rfl, rfl, rfl, rfl⟩

end Sys2Proof.Machine
end

section
/-! PROOFS. What a step leaves of the counters (10_state.md R20 to R22), of the blob (R32) and of the
constants (R27, R28, R51). -/

namespace Sys2Proof.Machine

/-- The next state of a drained byte has the effects of a byte. -/
theorem effect_of_exec_decodeByte {m : StatusMap} {b : Byte} {s t : State}
    (h : exec (decodeByte m b) s = .next t) : ByteEffect s t := by
  obtain ⟨u, hu, heffect⟩ := row_effect m b s
  rw [hu] at h
  cases h
  exact heffect

/-! ### Counters -/

/-- Leaves the countdown and `ticks`, and leaves or clears the stopwatch. -/
def CountersOnlyReset (s t : State) : Prop :=
  t.countdown = s.countdown ∧ t.ticks = s.ticks ∧ (t.stopwatch = s.stopwatch ∨ t.stopwatch = 0)

/-- No action of the foreground loads the countdown; the stall check and the notice clear the
stopwatch. -/
theorem ForegroundAction.counters {s t : State} (h : ForegroundAction s t) :
    CountersOnlyReset s t := by
  cases h with
  | poll => rw [pollSleep_frame]; exact ⟨rfl, rfl, .inl rfl⟩
  | stallResets => exact ⟨rfl, rfl, .inr rfl⟩
  | pollNf => exact ⟨rfl, rfl, .inr rfl⟩
  | pollShutdown => rw [shutdownRoutine_eq]; exact ⟨rfl, rfl, .inl rfl⟩
  | drainByte b rest _ _ _ _ hexec =>
    rw [(effect_of_exec_decodeByte hexec).frame]
    exact ⟨rfl, rfl, .inl rfl⟩
  | scanBatch => rw [fsPoll_frame]; exact ⟨rfl, rfl, .inl rfl⟩
  | _ => exact ⟨rfl, rfl, .inl rfl⟩

/-- The environment's own moves leave the counters. -/
theorem environment_counters {e : Event} {s t : State} (h : environment e s = .next t)
    (he : e ≠ .tick) : CountersOnlyReset s t := by
  rcases environment_cases h with ⟨_, rfl⟩ | ⟨htick, _⟩ | ⟨b, _, rfl⟩ | ⟨f, _, rfl⟩ |
    ⟨l, _, _, rfl⟩ | ⟨l, _, _, _, rfl⟩ | ⟨c, v, _, _, _, rfl⟩
  case inr.inl => exact absurd htick he
  case inr.inr.inl => rw [pushMidi_frame]; exact ⟨rfl, rfl, .inl rfl⟩
  all_goals exact ⟨rfl, rfl, .inl rfl⟩

/-- Settles O13: a step that is not a tick is an action of the foreground or a move of the
environment. -/
theorem onlyTicksMoveCounters : Obligations.OnlyTicksMoveCounters := by
  intro s t hstep hnotick
  rcases step_next_cases hstep with ⟨u, hturn, haction⟩ | ⟨e, m, hsched, _, henv⟩
  · have hcounters := haction.counters
    rw [hturn.eq] at hcounters
    exact hcounters
  · have he : e ≠ .tick := fun htick => hnotick m (htick ▸ hsched)
    have hcounters := environment_counters henv he
    exact hcounters

/-! ### The blob -/

/-- The blob is left, or a byte was drained, or a clearing build emitted. -/
theorem ForegroundAction.blob_cases {s t : State} (h : ForegroundAction s t) :
    t.blob = s.blob ∨
    (s.pc = .run .midiDrain ∧ ∃ b, s.midiRx = b :: t.midiRx) ∨
    (s.pc = .run .gateSend ∧ s.cfg.snapshotClears = true ∧ t.blob = []) := by
  cases h with
  | poll => rw [pollSleep_frame]; exact .inl rfl
  | pollShutdown => rw [shutdownRoutine_eq]; exact .inl rfl
  | scanBatch => rw [fsPoll_frame]; exact .inl rfl
  | drainByte b rest _ _ hpc hrx hexec =>
    have hrest : t.midiRx = rest := by rw [(effect_of_exec_decodeByte hexec).frame]
    exact .inr (.inl ⟨hpc, b, by rw [hrx, hrest]⟩)
  | gateSends _ hpc =>
    by_cases hclears : s.cfg.snapshotClears = true
    · exact .inr (.inr ⟨hpc, hclears, if_pos hclears⟩)
    · exact .inl (if_neg hclears)
  | _ => exact .inl rfl

/-- Settles O32: ticks and inputs leave the blob, and of the foreground's actions only the drained
byte and the clearing emission do not. -/
theorem onlyDecoderChangesBlob : Obligations.OnlyDecoderChangesBlob := by
  intro s t hstep hchanged
  rcases step_next_cases hstep with ⟨u, hturn, haction⟩ | ⟨e, m, _, _, henv⟩
  · have hcases := haction.blob_cases
    rw [hturn.eq] at hcases
    exact hcases.resolve_left hchanged
  · have hblob : t.blob = s.blob := by rw [environment_frame henv]
    exact absurd hblob hchanged

/-! ### Constants -/

/-- The configuration and the send-side fields are kept, and the filter outside start-up. -/
def KeepsConstants (s t : State) : Prop :=
  t.cfg = s.cfg ∧ (s.phase ≠ .init → t.channelFilter = s.channelFilter) ∧
    t.lastStatusSent = s.lastStatusSent ∧ t.sendFullCommands = s.sendFullCommands

/-- Only the MD.INIT of SCH.INIT writes one of these fields, the filter. -/
theorem ForegroundAction.constants {s t : State} (h : ForegroundAction s t) :
    KeepsConstants s t := by
  cases h with
  | poll => rw [pollSleep_frame]; exact ⟨rfl, fun _ => rfl, rfl, rfl⟩
  | pollShutdown => rw [shutdownRoutine_eq]; exact ⟨rfl, fun _ => rfl, rfl, rfl⟩
  | scanBatch => rw [fsPoll_frame]; exact ⟨rfl, fun _ => rfl, rfl, rfl⟩
  | drainByte b rest _ _ _ _ hexec =>
    rw [(effect_of_exec_decodeByte hexec).frame]
    exact ⟨rfl, fun _ => rfl, rfl, rfl⟩
  | initEnds _ hpc =>
    have hinit : s.phase = .init := congrArg Pc.phase hpc
    exact ⟨rfl, fun hphase => absurd hinit hphase, rfl, rfl⟩
  | _ => exact ⟨rfl, fun _ => rfl, rfl, rfl⟩

/-- Settles O56: no action of the foreground and no move of another agent writes one of the
constants. -/
theorem constantsStay : Obligations.ConstantsStay := by
  intro s t hstep
  rcases step_next_cases hstep with ⟨u, hturn, haction⟩ | ⟨e, m, _, _, henv⟩
  · have hconstants := haction.constants
    rw [hturn.eq] at hconstants
    exact hconstants
  · rw [environment_frame henv]
    exact ⟨rfl, fun _ => rfl, rfl, rfl⟩

end Sys2Proof.Machine
end

section
/-! PROOFS. What decoding one byte can do, clause by clause (41_midi_decoder.md R141), and the
decoder's and the blob's invariants over each clause (10_state.md R26, 42_live_state_blob.md R199). -/

namespace Sys2Proof.Machine

/-! ### The clauses -/

/-- The state after one byte, by the clause of R141 that took it, with what the invariants need of
the byte: a byte that waits has the argument count of its class, a data byte is below 128. -/
inductive ByteClause (s : State) : State → Prop where
  | forward (b : Byte) : ByteClause s (forward b s)
  | awaitArgs (b : Byte) (n : Nat) : s.mode = .normal →
      (classify s.cfg.status b).kind = .withArgs n → ByteClause s (awaitArgs b n s)
  | immediate (k : ByteClass) : ByteClause s (immediate k s)
  | enterPassthrough : ByteClause s (enterPassthrough s)
  | exitPassthrough : ByteClause s (exitPassthrough s)
  | toIdle : ByteClause s (toIdle s)
  | dataByte (b : Byte) : b.toNat < 128 → ByteClause s (dataByte b s)

theorem ByteClause.unlessPassthrough {b : Byte} {f : State → State} {s : State}
    (h : s.mode = .normal → ByteClause s (f s)) : ByteClause s (unlessPassthrough b f s) := by
  unfold Machine.unlessPassthrough
  split
  · exact .forward b
  · next hmode => exact h hmode

theorem ByteClause.channelStatus {k : ByteClass} {n : Nat} {s : State}
    (hmap : s.cfg.status.wf = true) (hk : k ∈ channelClasses) (hn : k.kind = .withArgs n)
    (c : BitVec 4) : ByteClause s (channelStatus k c n s) :=
  .unlessPassthrough fun hmode =>
    .awaitArgs _ n hmode (by rw [(classify_channelByte hmap hk c).1]; exact hn)

theorem ByteClause.systemStatus {k : ByteClass} {f : Byte → State → State} {s : State}
    (h : s.mode = .normal → ByteClause s (f (s.cfg.status.systemByte k) s)) :
    ByteClause s (systemStatus k f s) :=
  .unlessPassthrough h

theorem ByteClause.systemAwait {k : ByteClass} {n : Nat} {s : State} (hmap : s.cfg.status.wf = true)
    (hk : k ∈ systemClasses) (hn : k.kind = .withArgs n) :
    ByteClause s (Machine.systemStatus k (fun b => Machine.awaitArgs b n) s) :=
  .systemStatus fun hmode =>
    .awaitArgs _ n hmode (by rw [classify_systemByte hmap hk]; exact hn)

theorem ByteClause.systemImmediate (k : ByteClass) (s : State) :
    ByteClause s (Machine.systemStatus k (fun _ => Machine.immediate k) s) :=
  .systemStatus fun _ => .immediate k

theorem ByteClause.systemToIdle (k : ByteClass) (s : State) :
    ByteClause s (Machine.systemStatus k (fun _ => Machine.toIdle) s) :=
  .systemStatus fun _ => .toIdle

theorem dataByte_toNat_lt (d : BitVec 7) : (d.setWidth 8).toNat < 128 := by
  rw [BitVec.toNat_setWidth_of_le (by decide)]
  exact d.isLt

/-- The row that a byte decodes to takes one of the clauses. -/
theorem exec_decodeByte_clause {s : State} (hmap : s.cfg.status.wf = true) (b : Byte) :
    ∃ t, exec (decodeByte s.cfg.status b) s = .next t ∧ ByteClause s t := by
  unfold decodeByte
  cases classify s.cfg.status b with
  | noteOff => exact ⟨_, rfl, .channelStatus hmap (by decide) rfl _⟩
  | noteOn => exact ⟨_, rfl, .channelStatus hmap (by decide) rfl _⟩
  | polyPressure => exact ⟨_, rfl, .channelStatus hmap (by decide) rfl _⟩
  | controlChange => exact ⟨_, rfl, .channelStatus hmap (by decide) rfl _⟩
  | programChange => exact ⟨_, rfl, .channelStatus hmap (by decide) rfl _⟩
  | channelPressure => exact ⟨_, rfl, .channelStatus hmap (by decide) rfl _⟩
  | pitchBend => exact ⟨_, rfl, .channelStatus hmap (by decide) rfl _⟩
  | songPosition => exact ⟨_, rfl, .systemAwait hmap (by decide) rfl⟩
  | songSelect => exact ⟨_, rfl, .systemAwait hmap (by decide) rfl⟩
  | tuneRequest => exact ⟨_, rfl, .systemImmediate _ s⟩
  | clock => exact ⟨_, rfl, .systemImmediate _ s⟩
  | start => exact ⟨_, rfl, .systemImmediate _ s⟩
  | cont => exact ⟨_, rfl, .systemImmediate _ s⟩
  | stop => exact ⟨_, rfl, .systemImmediate _ s⟩
  | activeSense => exact ⟨_, rfl, .systemImmediate _ s⟩
  | systemReset => exact ⟨_, rfl, .systemImmediate _ s⟩
  | vendorStart => exact ⟨_, rfl, .systemStatus fun _ => .enterPassthrough⟩
  | vendorEnd => exact ⟨_, rfl, .exitPassthrough⟩
  | unlistedF1 => exact ⟨_, rfl, .systemToIdle _ s⟩
  | unlistedF4 => exact ⟨_, rfl, .systemToIdle _ s⟩
  | unlistedF5 => exact ⟨_, rfl, .systemToIdle _ s⟩
  | unlistedF9 => exact ⟨_, rfl, .systemToIdle _ s⟩
  | unlistedFD => exact ⟨_, rfl, .systemToIdle _ s⟩
  | data => exact ⟨_, rfl, .unlessPassthrough fun _ => .dataByte _ (dataByte_toNat_lt _)⟩

/-- The next state of a drained byte is the one its clause leaves. -/
theorem clause_of_exec_decodeByte {b : Byte} {s t : State} (hmap : s.cfg.status.wf = true)
    (h : exec (decodeByte s.cfg.status b) s = .next t) : ByteClause s t := by
  obtain ⟨u, hu, hclause⟩ := exec_decodeByte_clause hmap b
  rw [hu] at h
  cases h
  exact hclause

/-! ### The decoder's invariant -/

/-- A class that waits for arguments waits for at least one. -/
theorem kind_withArgs_pos {k : ByteClass} {n : Nat} (h : k.kind = .withArgs n) : 0 < n := by
  cases k <;> cases h <;> decide

theorem DecoderInv.forward {s : State} (h : DecoderInv s) (b : Byte) : DecoderInv (forward b s) :=
  { h with }

theorem DecoderInv.awaitArgs {b : Byte} {n : Nat} {s : State} (h : DecoderInv s)
    (hmode : s.mode = .normal) (hkind : (classify s.cfg.status b).kind = .withArgs n) :
    DecoderInv (awaitArgs b n s) where
  idle := nofun
  awaiting := by
    intro e he
    cases he
    exact ⟨hkind, kind_withArgs_pos hkind⟩
  passthrough := by simp [hmode]
  lastData := h.lastData

/-- In `Idle` with the counters cleared the decoder's invariant asks only for the last data byte. -/
theorem DecoderInv.of_idle {s : State} (hnone : s.pendingEvent = none) (hneeded : s.bytesNeeded = 0)
    (hreceived : s.bytesReceived = 0) (hlast : s.lastDataByte.toNat < 128) : DecoderInv s where
  idle := fun _ => ⟨hneeded, hreceived⟩
  awaiting := by simp [hnone]
  passthrough := fun _ => hnone
  lastData := hlast

theorem DecoderInv.toIdle {s : State} (h : DecoderInv s) : DecoderInv (toIdle s) :=
  .of_idle rfl rfl rfl h.lastData

theorem DecoderInv.immediate {s : State} (h : DecoderInv s) (k : ByteClass) :
    DecoderInv (immediate k s) :=
  .of_idle rfl rfl rfl (by unfold Machine.immediate; rw [fireOpt_frame]; exact h.lastData)

theorem DecoderInv.enterPassthrough {s : State} (h : DecoderInv s) :
    DecoderInv (enterPassthrough s) := by
  unfold Machine.enterPassthrough
  rw [fire_eq]
  exact .of_idle rfl rfl rfl h.lastData

theorem DecoderInv.exitPassthrough {s : State} (h : DecoderInv s) :
    DecoderInv (exitPassthrough s) := by
  unfold Machine.exitPassthrough
  rw [fire_eq]
  exact .of_idle rfl rfl rfl h.lastData

/-- What a data byte leaves in the argument counter (R146). -/
theorem dataByte_bytesReceived (b : Byte) (s : State) :
    (dataByte b s).bytesReceived =
      if s.pendingEvent = none then s.bytesReceived
      else if s.bytesReceived + 1 = s.bytesNeeded then 0 else s.bytesReceived + 1 := by
  unfold dataByte
  cases s.pendingEvent with
  | none => rfl
  | some e => by_cases hfull : s.bytesReceived + 1 = s.bytesNeeded <;> simp [hfull]

theorem DecoderInv.dataByte {b : Byte} {s : State} (h : DecoderInv s) (hb : b.toNat < 128) :
    DecoderInv (dataByte b s) := by
  rw [dataByte_frame, dataByte_bytesReceived]
  refine { h with idle := ?idle, awaiting := ?awaiting, lastData := hb }
  case idle =>
    intro hnone
    exact ⟨(h.idle hnone).1, (if_pos hnone).trans (h.idle hnone).2⟩
  case awaiting =>
    intro e he
    obtain ⟨hkind, hlt⟩ := h.awaiting e he
    have hpending : s.pendingEvent ≠ none := fun hnone => nomatch hnone.symm.trans he
    refine ⟨hkind, ?_⟩
    show (if s.pendingEvent = none then _ else _) < s.bytesNeeded
    rw [if_neg hpending]
    split <;> omega

theorem ByteClause.decoderInv {s t : State} (hstep : ByteClause s t) (h : DecoderInv s) :
    DecoderInv t := by
  cases hstep with
  | forward b => exact h.forward b
  | awaitArgs b n hmode hkind => exact h.awaitArgs hmode hkind
  | immediate k => exact h.immediate k
  | enterPassthrough => exact h.enterPassthrough
  | exitPassthrough => exact h.exitPassthrough
  | toIdle => exact h.toIdle
  | dataByte b hb => exact h.dataByte hb

/-! ### The blob's invariant -/

/-- A write inside the blob keeps its invariant when the byte is in the range of its address
(R199). -/
theorem BlobInv.write {i : Nat} {v : Byte} {s : State} (h : BlobInv s) (hi : i < s.cfg.blobSize)
    (hsync : i = 21 → v.toNat < 24) (hvalue : 16 ≤ i → v.toNat < 128) :
    BlobInv (blobWrite i v s) where
  canonical := Memory.wf_write h.canonical i v
  inside := Memory.within_write h.inside hi v
  sync := by
    rw [blobRead_blobWrite]
    split
    · next heq => exact hsync heq.symm
    · exact h.sync
  controllers := by
    intro a hlow hhigh
    rw [blobRead_blobWrite]
    split
    · next heq => exact hvalue (heq ▸ hlow)
    · exact h.controllers a hlow hhigh
  program := by
    rw [blobRead_blobWrite]
    split
    · next heq => exact hvalue (heq ▸ by decide)
    · exact h.program

/-- A write to a note byte leaves every byte that has a range. -/
theorem BlobInv.writeNote {s : State} (h : BlobInv s) (hcfg : s.cfg.wf = true) (note v : Byte) :
    BlobInv (blobWrite (noteIndex note) v s) := by
  have hsize : s.cfg.blobSize = 23 := Config.wf_blobSize hcfg
  have hnote : noteIndex note < 16 := noteIndex_lt note
  exact h.write (by omega) (by omega) (by omega)

/-- A write of the sync position in its range. -/
theorem BlobInv.writeSync {s : State} (h : BlobInv s) (hcfg : s.cfg.wf = true) {v : Byte}
    (hv : v.toNat < 24) : BlobInv (blobWrite syncIndex v s) := by
  have hsize : s.cfg.blobSize = 23 := Config.wf_blobSize hcfg
  exact h.write (by rw [hsize]; decide) (fun _ => hv) (fun _ => by omega)

theorem BlobInv.advanceSync {s : State} (h : BlobInv s) (hcfg : s.cfg.wf = true) :
    BlobInv (advanceSync s) := by
  have hmod : s.cfg.syncModulus = 24 := Config.wf_syncModulus hcfg
  refine h.writeSync hcfg ?_
  rw [hmod, BitVec.toNat_ofNat]
  omega

theorem BlobInv.setProgram {s : State} (h : BlobInv s) (hcfg : s.cfg.wf = true) {value : Byte}
    (hvalue : value.toNat < 128) : BlobInv (setProgram value s) := by
  have hsize : s.cfg.blobSize = 23 := Config.wf_blobSize hcfg
  exact h.write (by rw [hsize]; decide) (fun heq => absurd heq (by decide)) (fun _ => hvalue)

/-- The five slots end below the sync position. -/
theorem setController_read_above (cc value : Byte) (s : State) {a : Nat} (ha : 21 ≤ a) :
    blobRead (setController cc value s) a = blobRead s a := by
  unfold blobRead
  have hslot : s.cfg.ccSlot.toList[a - controllerBase]? = none := by
    rw [List.getElem?_eq_none_iff, Vector.length_toList]
    unfold controllerBase
    omega
  rw [setController_blob, read_writeSlots, hslot]
  exact if_neg (by simp)

theorem BlobInv.setController {s : State} (h : BlobInv s) (hcfg : s.cfg.wf = true) (cc : Byte)
    {value : Byte} (hvalue : value.toNat < 128) : BlobInv (setController cc value s) where
  canonical := wf_writeSlots cc value _ _ h.canonical
  inside := by
    refine within_writeSlots cc value _ _ h.inside ?_
    have hsize : s.cfg.blobSize = 23 := Config.wf_blobSize hcfg
    rw [Vector.length_toList]
    show 16 + 5 ≤ s.cfg.blobSize
    omega
  sync := by
    rw [setController_read_above cc value s (by decide)]
    exact h.sync
  controllers := by
    intro a hlow hhigh
    unfold blobRead
    rw [setController_blob, read_writeSlots]
    split
    · exact hvalue
    · exact h.controllers a hlow hhigh
  program := by
    rw [setController_read_above cc value s (by decide)]
    exact h.program

/-- What the handler of an event puts into a byte of the blob as it stands is a data byte. -/
def StoresDataByte : MidiEvent → Prop
  | .controlChange _ _ v => v.toNat < 128
  | .programChange _ p => p.toNat < 128
  | _ => True

/-- A message that a data byte completes stores, if anything, that byte (R154, R155). -/
theorem completedEvent_storesDataByte {ch a1 b : Byte} {k : ByteClass} {e : MidiEvent}
    (hb : b.toNat < 128) (h : completedEvent ch a1 b k = some e) : StoresDataByte e := by
  cases k with
  | noteOn =>
    simp only [completedEvent] at h
    split at h <;> cases h <;> trivial
  | controlChange => cases h; exact hb
  | programChange => cases h; exact hb
  | _ => cases h <;> trivial

/-- An event of a status byte alone stores no data (R163 to R168). -/
theorem immediateEvent_storesDataByte {k : ByteClass} {e : MidiEvent}
    (h : immediateEvent k = some e) : StoresDataByte e := by
  cases k <;> cases h <;> trivial

theorem BlobInv.eventBlob {s : State} (h : BlobInv s) (hcfg : s.cfg.wf = true) {e : MidiEvent}
    (he : StoresDataByte e) : BlobInv (eventBlob e s) := by
  cases e with
  | noteOn _ note _ => exact h.writeNote hcfg note _
  | noteOff _ note _ => exact h.writeNote hcfg note _
  | controlChange _ cc _ => exact h.setController hcfg cc he
  | programChange => exact h.setProgram hcfg he
  | clock => exact h.advanceSync hcfg
  | start => exact h.writeSync hcfg (by decide)
  | cont => exact h.writeSync hcfg (by decide)
  | _ => exact h

theorem BlobInv.handleBlob {s : State} (h : BlobInv s) (hcfg : s.cfg.wf = true) {e : MidiEvent}
    (he : StoresDataByte e) : BlobInv (handleBlob e s) := by
  unfold Machine.handleBlob
  split
  · exact h.eventBlob hcfg he
  · exact h

theorem BlobInv.fire {s : State} (h : BlobInv s) (hcfg : s.cfg.wf = true) {e : MidiEvent}
    (he : StoresDataByte e) : BlobInv (fire e s) := by
  have hhandled : BlobInv (Machine.handleBlob e s) := h.handleBlob hcfg he
  rw [handleBlob_frame] at hhandled
  rw [fire_eq]
  exact { hhandled with }

theorem BlobInv.fireOpt {s : State} (h : BlobInv s) (hcfg : s.cfg.wf = true) {e : Option MidiEvent}
    (he : ∀ ev, e = some ev → StoresDataByte ev) : BlobInv (fireOpt e s) := by
  cases e with
  | none => exact h
  | some ev => exact h.fire hcfg (he ev rfl)

theorem BlobInv.complete {s : State} (h : BlobInv s) (hcfg : s.cfg.wf = true) (e : Byte) {b : Byte}
    (hb : b.toNat < 128) : BlobInv (complete e b s) := by
  unfold Machine.complete
  split
  · exact h.fireOpt hcfg fun _ => completedEvent_storesDataByte hb
  · exact h

theorem BlobInv.dataByte {s : State} (h : BlobInv s) (hcfg : s.cfg.wf = true) {b : Byte}
    (hb : b.toNat < 128) : BlobInv (dataByte b s) := by
  unfold Machine.dataByte
  split
  · exact { h with }
  · next e _ =>
    split
    · exact { h.complete hcfg e hb with }
    · exact { h with }

theorem ByteClause.blobInv {s t : State} (hstep : ByteClause s t) (hcfg : s.cfg.wf = true)
    (h : BlobInv s) : BlobInv t := by
  cases hstep with
  | forward => exact { h with }
  | awaitArgs => exact { h with }
  | immediate =>
    exact { h.fireOpt hcfg fun _ => immediateEvent_storesDataByte with }
  | enterPassthrough =>
    have hmarked : BlobInv (toSink .enter (Machine.toIdle { s with mode := .passthrough })) :=
      { h with }
    exact hmarked.fire hcfg (e := .passthroughEnter) trivial
  | exitPassthrough =>
    have hmarked : BlobInv (toSink .exit (Machine.toIdle { s with mode := .normal })) := { h with }
    exact hmarked.fire hcfg (e := .passthroughExit) trivial
  | toIdle => exact { h with }
  | dataByte b hb => exact h.dataByte hcfg hb

end Sys2Proof.Machine
end

section
/-! PROOFS. The scanner's and the scheduler's invariants over their operations, and the block's
invariant over every step (10_state.md R20 to R46, 42_live_state_blob.md R199). -/

namespace Sys2Proof.Machine

/-! ### The scanner's invariant -/

theorem decideKeys_length (ring : List (List Contact)) (i : Nat) (l : List Contact) :
    (decideKeys ring i l).length = l.length := by
  induction l generalizing i with
  | nil => rfl
  | cons last rest ih => simp only [decideKeys, List.length_cons, ih]

theorem ScannerInv.keyScan {s : State} (h : ScannerInv s) : ScannerInv (keyScan s) := by
  rw [keyScan_eq]
  exact { h with
    keyLast := (decideKeys_length _ 0 _).trans h.keyLast
    generations := List.length_set.trans h.generations
    keyGen := by
      intro g hg
      rcases List.mem_or_eq_of_mem_set hg with hold | hnew
      · exact h.keyGen g hold
      · rw [hnew, List.length_map]
        exact h.pins
    generation := Nat.mod_lt _ (Nat.zero_lt_of_lt h.generation) }

theorem ScannerInv.fsPoll {s : State} (h : ScannerInv s) (v : Sample) :
    ScannerInv (fsPoll v s) := by
  rw [fsPoll_eq]
  exact { h with
    slots := List.length_set.trans h.slots
    slot := Nat.mod_lt _ (Nat.zero_lt_of_lt h.slot) }

/-- A sample that the latch reads fits, also where the buffer has none. -/
theorem ScannerInv.sampleAt_lt {s : State} (h : ScannerInv s) (c : Nat) :
    (sampleAt s c).toNat < 2 ^ s.cfg.wSample := by
  unfold sampleAt
  rw [List.getD_eq_getElem?_getD]
  by_cases hc : c < s.adcSample.length
  · rw [List.getElem?_eq_getElem hc]
    exact h.sampleWidth _ (List.getElem_mem hc)
  · rw [List.getElem?_eq_none (Nat.le_of_not_lt hc)]
    exact Nat.two_pow_pos _

theorem ScannerInv.latchKnobs {s : State} (h : ScannerInv s) (hcfg : s.cfg.wf = true) :
    ScannerInv (latchKnobs s) where
  __ := h
  knobs := by
    obtain ⟨_, hmap, _⟩ := Config.wf_analog hcfg
    exact (List.length_map _).trans hmap
  knobWidth := by
    intro v hv
    obtain ⟨c, _, rfl⟩ := List.mem_map.mp hv
    exact h.sampleAt_lt c

/-! ### The scheduler's invariant -/

theorem phase_of_pc_init {s : State} {p : InitStep} (h : s.pc = .init p) : s.phase = .init :=
  congrArg Pc.phase h

theorem phase_of_pc_bootWait {s : State} {p : BootStep} (h : s.pc = .bootWait p) :
    s.phase = .bootWait :=
  congrArg Pc.phase h

theorem phase_of_pc_run {s : State} {p : RunStep} (h : s.pc = .run p) : s.phase = .run :=
  congrArg Pc.phase h

theorem phase_halted_iff (s : State) : s.phase = .halted ↔ s.pc = .halted := by
  unfold State.phase Pc.phase
  cases s.pc <;> simp

theorem SchedulerInv.haltReason_none {s : State} (h : SchedulerInv s) (hphase : s.phase ≠ .halted) :
    s.haltReason = .none := by
  by_contra hreason
  exact hphase ((phase_halted_iff s).mpr (h.halt.mpr hreason))

/-- Before `Run` no snapshot is pending. -/
theorem SchedulerInv.not_pending {s : State} (h : SchedulerInv s) (hrun : s.phase ≠ .run)
    (hhalted : s.phase ≠ .halted) : s.snapshotPending = false := by
  by_contra hpending
  rcases h.pending (by simpa using hpending) with hphase | hphase
  · exact hrun hphase
  · exact hhalted hphase

/-- Entering or moving inside Boot-Wait, with the Timebase armed and nothing sent. -/
theorem SchedulerInv.toBootWait {s : State} (h : SchedulerInv s)
    (hphase : s.phase = .init ∨ s.phase = .bootWait) (harmed : s.tbArmed = true) (p : BootStep) :
    SchedulerInv { s with pc := .bootWait p } :=
  have hrun : s.phase ≠ .run := by rcases hphase with hp | hp <;> simp [hp]
  have hhalted : s.phase ≠ .halted := by rcases hphase with hp | hp <;> simp [hp]
  { h with
    halt := by simp [h.haltReason_none hhalted]
    armed := fun _ => harmed
    pending := by simp [h.not_pending hrun hhalted]
    sending := nofun
    silent := fun _ => h.silent hphase }

/-- Moving inside Boot-Wait. -/
theorem SchedulerInv.bootWait {s : State} {p : BootStep} (h : SchedulerInv s)
    (hpc : s.pc = .bootWait p) (q : BootStep) : SchedulerInv { s with pc := .bootWait q } :=
  have hphase := phase_of_pc_bootWait hpc
  h.toBootWait (.inr hphase) (h.armed (.inr (.inl hphase))) q

/-- Entering or moving inside `Run`, whatever was sent; the emission needs a pending snapshot. -/
theorem SchedulerInv.toRun {s : State} (h : SchedulerInv s)
    (hphase : s.phase = .bootWait ∨ s.phase = .run) (p : RunStep) (pending : Bool)
    (out : List Frame) (hsend : p = .gateSend → pending = true) :
    SchedulerInv { s with pc := .run p, snapshotPending := pending, out := out } :=
  have hhalted : s.phase ≠ .halted := by rcases hphase with hp | hp <;> simp [hp]
  { h with
    halt := by simp [h.haltReason_none hhalted]
    armed := fun _ => h.armed (.inr hphase)
    pending := fun _ => .inl rfl
    sending := fun hpc => hsend (by simpa using hpc)
    silent := by simp [State.phase, Pc.phase] }

/-- Moving inside `Run` to a position other than the emission. -/
theorem SchedulerInv.run {s : State} {p : RunStep} (h : SchedulerInv s) (hpc : s.pc = .run p)
    (q : RunStep) (hq : q ≠ .gateSend) (out : List Frame) :
    SchedulerInv { s with pc := .run q, out := out } :=
  h.toRun (.inr (phase_of_pc_run hpc)) q s.snapshotPending out fun he => absurd he hq

/-- Halting, with a reason. -/
theorem SchedulerInv.toHalted {s : State} (h : SchedulerInv s) {reason : HaltReason}
    (hreason : reason ≠ .none) : SchedulerInv { s with pc := .halted, haltReason := reason } where
  __ := h
  halt := by simp [hreason]
  armed := by simp [State.phase, Pc.phase]
  pending := fun _ => .inr rfl
  sending := nofun
  silent := by simp [State.phase, Pc.phase]

theorem SchedulerInv.initArms {s : State} (h : SchedulerInv s) (hpc : s.pc = .init .start) :
    SchedulerInv { s with tbArmed := true, pc := .init .decoder } :=
  have hinit : s.phase = .init := phase_of_pc_init hpc
  have hrun : s.phase ≠ .run := by simp [hinit]
  have hhalted : s.phase ≠ .halted := by simp [hinit]
  { h with
    halt := by simp [h.haltReason_none hhalted]
    armed := fun _ => rfl
    pending := by simp [h.not_pending hrun hhalted]
    sending := nofun
    silent := fun _ => h.silent (.inl hinit) }

theorem SchedulerInv.initEnds {s : State} (h : SchedulerInv s) (hpc : s.pc = .init .decoder) :
    SchedulerInv { s with
      channelFilter := s.cfg.channelFilterInit, mode := .normal,
      pendingEvent := none, bytesNeeded := 0, bytesReceived := 0, lastDataByte := 0,
      pc := .bootWait .framePoll } where
  __ := h.toBootWait (.inl (phase_of_pc_init hpc)) (h.armed (.inl hpc)) .framePoll
  filter := rfl

/-- A byte of the drain leaves the scheduler in `Run`. -/
theorem SchedulerInv.drainByte {s t : State} {b : Byte} {rest : List Byte} (h : SchedulerInv s)
    (hpc : s.pc = .run .midiDrain) (hrx : s.midiRx = b :: rest)
    (heffect : ByteEffect { s with midiRx := rest } t) : SchedulerInv t := by
  rw [heffect.frame]
  have hcap : rest.length ≤ s.cfg.rxCap := by
    have hle := h.capacity
    rw [hrx, List.length_cons] at hle
    omega
  have hrun := h.run hpc .midiDrain (by decide) t.out
  rw [← hpc] at hrun
  exact { hrun with capacity := hcap }

theorem ForegroundAction.schedulerInv {s t : State} (haction : ForegroundAction s t)
    (h : SchedulerInv s) : SchedulerInv t := by
  cases haction with
  | poll => rw [pollSleep_frame]; exact { h with }
  | initFails => exact h.toHalted (by decide)
  | initArms _ hpc => exact h.initArms hpc
  | initEnds _ hpc => exact h.initEnds hpc
  | bootNoFrame _ hpc => exact h.bootWait hpc .stallCheck
  | bootReady _ _ _ hpc =>
    have hphase := phase_of_pc_bootWait hpc
    exact { h.toRun (.inl hphase) .midiDrain s.snapshotPending s.out nofun with }
  | bootDiscard _ _ _ hpc => exact { h.bootWait hpc .stallCheck with }
  | stallExceeded _ hpc => exact h.bootWait hpc .stallReset
  | stallNotYet _ hpc => exact h.bootWait hpc .framePoll
  | stallResets _ hpc => exact { h.bootWait hpc .stallShow with }
  | stallShows _ hpc => exact { h.bootWait hpc .framePoll with progress := Nat.min_le_right _ _ }
  | drainEnds _ hpc => exact h.run hpc .cmdPoll (by decide) s.out
  | drainByte b rest _ _ hpc hrx hexec =>
    exact h.drainByte hpc hrx (effect_of_exec_decodeByte hexec)
  | pollNoFrame _ hpc => exact h.run hpc .scan (by decide) s.out
  | pollLed _ _ _ _ hpc => exact { h.run hpc .scan (by decide) s.out with }
  | pollShutdown =>
    rw [shutdownRoutine_eq]
    exact { h.toHalted (reason := .shutdown) (by decide) with }
  | pollNf _ _ _ hpc => exact { h.run hpc .nfArm (by decide) s.out with }
  | noticeArms _ hpc => exact h.toRun (.inr (phase_of_pc_run hpc)) .scan true s.out fun _ => rfl
  | pollGetknobs _ _ _ hpc => exact { h.run hpc .scan (by decide) _ with }
  | pollDiscard _ _ _ hpc => exact { h.run hpc .scan (by decide) s.out with }
  | scanKeys _ hpc =>
    rw [keyScan_eq]
    exact { h.run hpc .knobLatch (by decide) _ with }
  | scanNoBatch _ hpc => exact h.run hpc .gate (by decide) s.out
  | scanBatch _ hpc =>
    rw [fsPoll_frame]
    exact { h.run hpc .gate (by decide) _ with }
  | gateOpens _ hpc hpending =>
    exact h.toRun (.inr (phase_of_pc_run hpc)) .gateSend s.snapshotPending s.out fun _ => hpending
  | gateHolds _ hpc => exact h.run hpc .midiDrain (by decide) s.out
  | gateSends _ hpc =>
    exact { h.toRun (.inr (phase_of_pc_run hpc)) .midiDrain false _ nofun with }
  | halted => exact h

/-! ### The other parts over the foreground's actions -/

/-- Counters that are left or cleared stay in their widths. -/
theorem TimebaseInv.of_onlyReset {s t : State} (h : TimebaseInv s)
    (hcounters : CountersOnlyReset s t) (hcfg : t.cfg = s.cfg) : TimebaseInv t := by
  obtain ⟨hcountdown, hticks, hstopwatch⟩ := hcounters
  refine ⟨?ticks, ?countdown, ?stopwatch⟩
  case ticks => rw [hticks, hcfg]; exact h.ticks
  case countdown => rw [hcountdown, hcfg]; exact h.countdown
  case stopwatch =>
    rw [hcfg]
    rcases hstopwatch with hkept | hcleared
    · rw [hkept]; exact h.stopwatch
    · rw [hcleared]; exact Nat.two_pow_pos _

theorem ForegroundAction.decoderInv {s t : State} (haction : ForegroundAction s t)
    (hcfg : s.cfg.wf = true) (h : DecoderInv s) : DecoderInv t := by
  cases haction with
  | poll => rw [pollSleep_frame]; exact { h with }
  | initEnds => exact .of_idle rfl rfl rfl (Nat.zero_lt_succ 127)
  | pollShutdown => rw [shutdownRoutine_eq]; exact { h with }
  | scanBatch => rw [fsPoll_frame]; exact { h with }
  | drainByte b rest _ _ _ _ hexec =>
    have hclause := clause_of_exec_decodeByte (s := { s with midiRx := rest })
      (Config.wf_status hcfg) hexec
    exact hclause.decoderInv { h with }
  | _ => exact { h with }

theorem ForegroundAction.blobInv {s t : State} (haction : ForegroundAction s t)
    (hcfg : s.cfg.wf = true) (h : BlobInv s) : BlobInv t := by
  cases haction with
  | poll => rw [pollSleep_frame]; exact { h with }
  | pollShutdown => rw [shutdownRoutine_eq]; exact { h with }
  | scanBatch => rw [fsPoll_frame]; exact { h with }
  | drainByte b rest _ _ _ _ hexec =>
    have hclause := clause_of_exec_decodeByte (s := { s with midiRx := rest })
      (Config.wf_status hcfg) hexec
    exact hclause.blobInv hcfg { h with }
  | gateSends =>
    by_cases hclears : s.cfg.snapshotClears = true
    · exact .of_nil (if_pos hclears)
    · rw [if_neg hclears]
      exact { h with }
  | _ => exact { h with }

theorem ForegroundAction.scannerInv {s t : State} (haction : ForegroundAction s t)
    (hcfg : s.cfg.wf = true) (h : ScannerInv s) : ScannerInv t := by
  cases haction with
  | poll => rw [pollSleep_frame]; exact { h with }
  | pollShutdown => rw [shutdownRoutine_eq]; exact { h with }
  | drainByte b rest _ _ _ _ hexec =>
    rw [(effect_of_exec_decodeByte hexec).frame]
    exact { h with }
  | scanKeys => exact { h.keyScan with }
  | scanBatch => exact { (h.latchKnobs hcfg).fsPoll (sampleAt s s.cfg.fsChannel) with }
  | _ => exact { h with }

theorem ForegroundAction.inv {s t : State} (haction : ForegroundAction s t) (h : Inv s) : Inv t :=
  have ⟨hcfg, _⟩ := haction.constants
  { config := by rw [hcfg]; exact h.config
    timebase := h.timebase.of_onlyReset haction.counters hcfg
    decoder := haction.decoderInv h.config h.decoder
    blob := haction.blobInv h.config h.blob
    scanner := haction.scannerInv h.config h.scanner
    scheduler := haction.schedulerInv h.scheduler }

/-! ### The moves of `IRQ` and of the environment -/

/-- The handler keeps each counter in its width: two wrap, the countdown only falls (R122). -/
theorem TimebaseInv.tickCounters {s : State} (h : TimebaseInv s) :
    TimebaseInv (tickCounters s) where
  ticks := Nat.mod_lt _ (Nat.two_pow_pos _)
  countdown := by
    have hlt := h.countdown
    rw [tickCounters_countdown]
    show _ < 2 ^ s.cfg.wCountdown
    split <;> omega
  stopwatch := Nat.mod_lt _ (Nat.two_pow_pos _)

theorem TimebaseInv.takeTick {s : State} (h : TimebaseInv s) : TimebaseInv (takeTick s) := by
  unfold Machine.takeTick
  split
  · exact h.tickCounters
  · exact h

theorem environment_timebaseInv {e : Event} {s t : State} (henv : environment e s = .next t)
    (h : TimebaseInv s) : TimebaseInv t := by
  by_cases he : e = .tick
  · subst he
    cases henv
    exact h.takeTick
  · have hcfg : t.cfg = s.cfg := by rw [environment_frame henv]
    exact h.of_onlyReset (environment_counters henv he) hcfg

/-- A pin vector, a batch and a rewritten sample are taken only in the shape of their buffers. -/
theorem environment_scannerInv {e : Event} {s t : State} (henv : environment e s = .next t)
    (h : ScannerInv s) : ScannerInv t := by
  rcases environment_cases henv with ⟨_, rfl⟩ | ⟨_, rfl⟩ | ⟨b, _, rfl⟩ | ⟨f, _, rfl⟩ |
    ⟨l, _, hlen, rfl⟩ | ⟨l, _, hlen, hfits, rfl⟩ | ⟨c, v, _, _, hfits, rfl⟩
  · exact h
  · rw [takeTick_frame]; exact { h with }
  · rw [pushMidi_frame]; exact { h with }
  · exact { h with }
  · exact { h with pins := hlen }
  · exact { h with samples := hlen, sampleWidth := hfits }
  · exact { h with
      samples := List.length_set.trans h.samples
      sampleWidth := by
        intro w hw
        rcases List.mem_or_eq_of_mem_set hw with hold | hnew
        · exact h.sampleWidth w hold
        · exact hnew ▸ hfits }

/-- A push leaves the buffer within its capacity, whatever it held. -/
theorem pushMidi_capacity (b : Byte) (s : State) :
    (pushMidi b s).midiRx.length ≤ s.cfg.rxCap := by
  rcases pushMidi_length b s with ⟨hroom, happend⟩ | ⟨_, hfull⟩
  · rw [happend, List.length_append, List.length_singleton]
    omega
  · exact hfull

theorem environment_schedulerInv {e : Event} {s t : State} (henv : environment e s = .next t)
    (h : SchedulerInv s) : SchedulerInv t := by
  rcases environment_cases henv with ⟨_, rfl⟩ | ⟨_, rfl⟩ | ⟨b, _, rfl⟩ | ⟨f, _, rfl⟩ |
    ⟨l, _, _, rfl⟩ | ⟨l, _, _, _, rfl⟩ | ⟨c, v, _, _, _, rfl⟩
  case inr.inl => rw [takeTick_frame]; exact { h with }
  case inr.inr.inl =>
    rw [pushMidi_frame]
    exact { h with capacity := pushMidi_capacity b _ }
  all_goals exact { h with }

theorem environment_inv {e : Event} {s t : State} (henv : environment e s = .next t) (h : Inv s) :
    Inv t where
  config := by rw [environment_frame henv]; exact h.config
  timebase := environment_timebaseInv henv h.timebase
  decoder := by rw [environment_frame henv]; exact { h.decoder with }
  blob := by rw [environment_frame henv]; exact { h.blob with }
  scanner := environment_scannerInv henv h.scanner
  scheduler := environment_schedulerInv henv h.scheduler

/-! ### The step -/

/-- The schedule is no part of the invariant. -/
theorem Inv.setSched {s : State} (h : Inv s) (m : List Event) : Inv { s with sched := m } where
  config := h.config
  timebase := { h.timebase with }
  decoder := { h.decoder with }
  blob := { h.blob with }
  scanner := { h.scanner with }
  scheduler := { h.scheduler with }

/-- Settles O57: the move is taken off the schedule, and then it is an action of the foreground or a
move of another agent. -/
theorem stepKeepsInvariant : Obligations.StepKeepsInvariant := by
  intro s t h hstep
  rcases step_next_cases hstep with ⟨u, hturn, haction⟩ | ⟨e, m, _, _, henv⟩
  · have hu : Inv u := by
      rw [hturn.eq]
      exact h.setSched u.sched
    exact haction.inv hu
  · exact environment_inv henv (h.setSched m)

end Sys2Proof.Machine
end

section
/-! PROOFS. The output sequences only grow (20_memory.md R66, 10_state.md R48, 41_midi_decoder.md
R142, R147). -/

namespace Sys2Proof.Machine

/-- What each output sequence held stays in front of what was added. -/
structure OutputsGrow (s t : State) : Prop where
  out : s.out <+: t.out
  sink : s.passthroughSink <+: t.passthroughSink
  fired : s.fired <+: t.fired

/-- Frames may be sent while the sink and the event record are left. -/
theorem OutputsGrow.of_out {s t : State} (hout : s.out <+: t.out)
    (hsink : t.passthroughSink = s.passthroughSink) (hfired : t.fired = s.fired) :
    OutputsGrow s t where
  out := hout
  sink := by rw [hsink]
  fired := by rw [hfired]

/-- The three sequences are left. -/
theorem OutputsGrow.of_eq {s t : State} (hout : t.out = s.out)
    (hsink : t.passthroughSink = s.passthroughSink) (hfired : t.fired = s.fired) :
    OutputsGrow s t :=
  .of_out (by rw [hout]) hsink hfired

theorem ByteEffect.outputsGrow {s t : State} (h : ByteEffect s t) : OutputsGrow s t where
  out := by
    obtain ⟨l, hl, _⟩ := h.out
    exact ⟨l, hl.symm⟩
  sink := by
    obtain ⟨l, hl⟩ := h.sink
    exact ⟨l, hl.symm⟩
  fired := by
    obtain ⟨l, hl⟩ := h.fired
    exact ⟨l, hl.symm⟩

/-- Four actions append frames (the knobs command, the key scan, the foot-switch poll of a latched
batch, the emission), a drained byte appends to any of the three, and the others append nothing. -/
theorem ForegroundAction.outputsGrow {s t : State} (h : ForegroundAction s t) :
    OutputsGrow s t := by
  cases h with
  | poll => rw [pollSleep_frame]; exact .of_eq rfl rfl rfl
  | pollShutdown => rw [shutdownRoutine_eq]; exact .of_eq rfl rfl rfl
  | drainByte b rest _ _ _ _ hexec =>
    have hbyte := (effect_of_exec_decodeByte hexec).outputsGrow
    exact { hbyte with }
  | pollGetknobs => exact .of_out (List.prefix_append _ _) rfl rfl
  | scanKeys => rw [keyScan_eq]; exact .of_out (List.prefix_append _ _) rfl rfl
  | scanBatch => rw [fsPoll_eq]; exact .of_out (List.prefix_append _ _) rfl rfl
  | gateSends => exact .of_out (List.prefix_append _ _) rfl rfl
  | _ => exact .of_eq rfl rfl rfl

theorem environment_outputsGrow {e : Event} {s t : State} (henv : environment e s = .next t) :
    OutputsGrow s t := by
  rw [environment_frame henv]
  exact .of_eq rfl rfl rfl

/-- The schedule is no output. -/
theorem step_outputsGrow {s t : State} (hstep : step s = .next t) : OutputsGrow s t := by
  rcases step_next_cases hstep with ⟨u, hturn, haction⟩ | ⟨e, m, _, _, henv⟩
  · have hgrow := haction.outputsGrow
    rw [hturn.eq] at hgrow
    exact { hgrow with }
  · have hgrow := environment_outputsGrow henv
    exact { hgrow with }

/-- Settles O55: every action of the foreground appends or leaves, and ticks and inputs leave, the
three sequences. -/
theorem outputsOnlyGrow : Obligations.OutputsOnlyGrow := by
  intro s t hstep
  obtain ⟨⟨sent, hout⟩, ⟨items, hsink⟩, ⟨events, hfired⟩⟩ := step_outputsGrow hstep
  exact ⟨⟨sent, hout.symm⟩, ⟨items, hsink.symm⟩, ⟨events, hfired.symm⟩⟩

end Sys2Proof.Machine
end

section
/-! PROOFS. Encoding, 30_encoding.md R93 to R96.  The round trip from an instruction to its bytes and back
comes from the laws of each row; the other direction from the three ranges a byte can lie in (R94). -/

namespace Sys2Proof.Laws.EncodeDecode

/-- The 24 rows of 30_encoding.md R93 are read back; every other row has no bytes. -/
theorem statement_of_every_instr (i : Instr) : Statement i := by
  cases i with
  | noteOff c => exact noteOff c
  | noteOn c => exact noteOn c
  | polyPressure c => exact polyPressure c
  | controlChange c => exact controlChange c
  | programChange c => exact programChange c
  | channelPressure c => exact channelPressure c
  | pitchBend c => exact pitchBend c
  | vendorStart => exact vendorStart
  | unlistedF1 => exact unlistedF1
  | songPosition => exact songPosition
  | songSelect => exact songSelect
  | unlistedF4 => exact unlistedF4
  | unlistedF5 => exact unlistedF5
  | tuneRequest => exact tuneRequest
  | vendorEnd => exact vendorEnd
  | clock => exact clock
  | unlistedF9 => exact unlistedF9
  | start => exact start
  | cont => exact cont
  | stop => exact stop
  | unlistedFD => exact unlistedFD
  | activeSense => exact activeSense
  | systemReset => exact systemReset
  | data d => exact data d
  | _ => exact of_none fun _ => rfl

end Sys2Proof.Laws.EncodeDecode

namespace Sys2Proof

/-- Settles O1, row by row. -/
theorem encodedInstructionDecodes : Obligations.EncodedInstructionDecodes :=
  fun m i rest hwf hbytes => Laws.EncodeDecode.statement_of_every_instr i m rest hwf hbytes

/-! ### From a byte to its row and back -/

theorem StatusMap.channel_nodup {m : StatusMap} (hwf : m.wf = true) : m.channel.Nodup :=
  (StatusMap.wf_perm hwf).1.nodup_iff.mpr (by decide)

theorem StatusMap.system_nodup {m : StatusMap} (hwf : m.wf = true) : m.system.Nodup :=
  (StatusMap.wf_perm hwf).2.nodup_iff.mpr (by decide)

/-- The converse of `channelByte_fields`: a byte below 0xF0 with bit 7 set is put together again from
its high nibble's position and its channel field. -/
theorem channelByte_of_fields : ∀ b : Byte, b.msb = true → b.extractLsb' 4 4 ≠ 0xF#4 →
    (b.extractLsb' 4 4).toNat - 8 < 7 ∧
    BitVec.ofNat 4 (8 + ((b.extractLsb' 4 4).toNat - 8)) ++ b.extractLsb' 0 4 = b := by decide

/-- The converse of `systemByte_fields`. -/
theorem systemByte_of_fields : ∀ b : Byte, b.extractLsb' 4 4 = 0xF#4 →
    0xF#4 ++ BitVec.ofNat 4 (b.extractLsb' 0 4).toNat = b := by decide

/-- A byte with bit 7 clear is its own 7-bit argument (30_encoding.md R96). -/
theorem setWidth_argument : ∀ b : Byte, b.msb = false →
    (b.extractLsb' 0 7).setWidth 8 = b := by decide

/-- The converse of `classify_channelByte`: a status byte below 0xF0 is the byte of its class and
channel field. -/
theorem channelByte_classify {m : StatusMap} (hwf : m.wf = true) {b : Byte}
    (hstatus : b.msb = true) (hnibble : b.extractLsb' 4 4 ≠ 0xF#4) :
    classify m b ∈ channelClasses ∧ m.channelByte (classify m b) (b.extractLsb' 0 4) = b := by
  obtain ⟨hpos, hjoin⟩ := channelByte_of_fields b hstatus hnibble
  have hperm := (StatusMap.wf_perm hwf).1
  have hlt : (b.extractLsb' 4 4).toNat - 8 < m.channel.length := hperm.length_eq ▸ hpos
  have hclass : classify m b = m.channel[(b.extractLsb' 4 4).toNat - 8] := by
    rw [classify, if_neg (by simp [hstatus]), if_pos hnibble]
    exact List.getD_eq_getElem _ _ hlt
  rw [hclass, StatusMap.channelByte, positionOf_getElem (StatusMap.channel_nodup hwf)]
  exact ⟨hperm.mem_iff.mp (List.getElem_mem hlt), hjoin⟩

/-- The converse of `classify_systemByte`: a byte of 0xF0 or more is the byte of its class. -/
theorem systemByte_classify {m : StatusMap} (hwf : m.wf = true) {b : Byte}
    (hstatus : b.msb = true) (hnibble : b.extractLsb' 4 4 = 0xF#4) :
    classify m b ∈ systemClasses ∧ m.systemByte (classify m b) = b := by
  have hperm := (StatusMap.wf_perm hwf).2
  have hlt : (b.extractLsb' 0 4).toNat < m.system.length :=
    hperm.length_eq ▸ (b.extractLsb' 0 4).isLt
  have hclass : classify m b = m.system[(b.extractLsb' 0 4).toNat] := by
    rw [classify, if_neg (by simp [hstatus]), if_neg (by simp [hnibble])]
    exact List.getD_eq_getElem _ _ hlt
  rw [hclass, StatusMap.systemByte, positionOf_getElem (StatusMap.system_nodup hwf)]
  exact ⟨hperm.mem_iff.mp (List.getElem_mem hlt), systemByte_of_fields b hnibble⟩

/-- The row of a channel class encodes to the class's byte, with the channel field of the byte read. -/
theorem encode_decodeByte_channel {m : StatusMap} {b : Byte}
    (hclass : classify m b ∈ channelClasses) :
    encode m (decodeByte m b) = [m.channelByte (classify m b) (b.extractLsb' 0 4)] := by
  unfold decodeByte
  generalize classify m b = k at hclass
  simp only [channelClasses, List.mem_cons, List.not_mem_nil, or_false] at hclass
  rcases hclass with rfl | rfl | rfl | rfl | rfl | rfl | rfl <;> rfl

/-- The row of a system class encodes to the class's byte. -/
theorem encode_decodeByte_system {m : StatusMap} {b : Byte}
    (hclass : classify m b ∈ systemClasses) :
    encode m (decodeByte m b) = [m.systemByte (classify m b)] := by
  unfold decodeByte
  generalize classify m b = k at hclass
  simp only [systemClasses, List.mem_cons, List.not_mem_nil, or_false] at hclass
  rcases hclass with rfl | rfl | rfl | rfl | rfl | rfl | rfl | rfl | rfl | rfl | rfl | rfl | rfl |
    rfl | rfl | rfl <;> rfl

/-- A data byte's row carries the byte's low seven bits. -/
theorem decodeByte_data (m : StatusMap) {b : Byte} (hdata : b.msb = false) :
    decodeByte m b = .data (b.extractLsb' 0 7) := by
  simp [decodeByte, classify, hdata]

/-- Every byte is what its own row encodes to (30_encoding.md R94): a data byte, a status byte with a
channel field, or a full byte. -/
theorem encode_decodeByte {m : StatusMap} (hwf : m.wf = true) (b : Byte) :
    encode m (decodeByte m b) = [b] := by
  cases hmsb : b.msb with
  | false =>
    rw [decodeByte_data m hmsb]
    exact congrArg (fun byte => [byte]) (setWidth_argument b hmsb)
  | true =>
    by_cases hnibble : b.extractLsb' 4 4 = 0xF#4
    · obtain ⟨hclass, hbyte⟩ := systemByte_classify hwf hmsb hnibble
      rw [encode_decodeByte_system hclass, hbyte]
    · obtain ⟨hclass, hbyte⟩ := channelByte_classify hwf hmsb hnibble
      rw [encode_decodeByte_channel hclass, hbyte]

/-- A byte that is an instruction's encoding is read as that instruction. -/
theorem decode_of_encode {m : StatusMap} (hwf : m.wf = true) {i : Instr} {b : Byte}
    (hbytes : encode m i = [b]) : decode m [b] = .ok i [] := by
  have hread := encodedInstructionDecodes m i [] hwf (by simp [hbytes])
  rwa [hbytes] at hread

/-- An instruction whose encoding is the byte `b` is the row of `b`. -/
theorem eq_decodeByte_of_encode {m : StatusMap} (hwf : m.wf = true) {i : Instr} {b : Byte}
    (hbytes : encode m i = [b]) : i = decodeByte m b := by
  injection decode_of_encode hwf hbytes with hinstr
  exact hinstr.symm

/-- Settles O2: each byte is its row's encoding, and reading back (O1) makes the row the only one. -/
theorem everyByteIsOneInstruction : Obligations.EveryByteIsOneInstruction :=
  fun _ b _ hwf => ⟨rfl, encode_decodeByte hwf b, fun _ => eq_decodeByte_of_encode hwf⟩

/-! ### Words of the map of 30_encoding.md R93 -/

/-- Settles O3: each word is what its row encodes to under the map, so the decoder reads the row. -/
theorem specWordsDecode : Obligations.SpecWordsDecode := by
  unfold Obligations.SpecWordsDecode
  refine ⟨?_, ?_, ?_, ?_, ?_, ?_, ?_, ?_⟩ <;> exact decode_of_encode StatusMap.midi_wf (by decide)

end Sys2Proof
end

section
/-! PROOFS. The Timebase (40_timebase.md R120 to R127): what one tick does, what a run of ticks adds up
to, and the foreground's operations on the counters. -/

namespace Sys2Proof.Machine

/-! ### One tick (R122, 60_exceptions.md R291) -/

theorem exec_tbTick (s : State) : exec .tbTick s = .next (tickCounters s) := rfl

/-- Saturation at zero is what subtraction of natural numbers does (D4). -/
theorem tickCounters_countdown_eq_sub (s : State) : (tickCounters s).countdown = s.countdown - 1 := by
  rw [tickCounters_countdown]
  split <;> omega

theorem takeTick_armed {s : State} (h : s.tbArmed = true) : takeTick s = tickCounters s := if_pos h

theorem takeTick_unarmed {s : State} (h : s.tbArmed = false) : takeTick s = s := by
  rw [takeTick, h, if_neg Bool.false_ne_true]

/-- Once armed, the tick at the head of the schedule makes the handler's updates (R291). -/
theorem step_tick_armed {s : State} {m : List Event} (h : s.sched = .tick :: m)
    (harmed : s.tbArmed = true) : step s = .next (tickCounters { s with sched := m }) :=
  (nextMove_environment h nofun).trans (congrArg Host.Outcome.next (takeTick_armed harmed))

/-- Before that it is dropped: "`IRQ` has no step" (R121). -/
theorem step_tick_unarmed {s : State} {m : List Event} (h : s.sched = .tick :: m)
    (hunarmed : s.tbArmed = false) : step s = .next { s with sched := m } :=
  (nextMove_environment h nofun).trans (congrArg Host.Outcome.next (takeTick_unarmed hunarmed))

/-- Settles O9: the handler's three updates, which a scheduled tick makes once armed and never
before. -/
theorem tickUpdatesCounters : Obligations.TickUpdatesCounters := by
  refine ⟨fun s => ?handler, fun s m hsched => ⟨fun harmed => ?armed, fun hunarmed => ?unarmed⟩⟩
  case handler =>
    exact ⟨tickCounters s, exec_tbTick s, tickCounters_countdown_eq_sub s, rfl, rfl, rfl⟩
  case armed => rw [step_tick_armed hsched harmed, exec_tbTick]
  case unarmed => exact step_tick_unarmed hsched hunarmed

/-! ### The operations of the foreground (R121, R123 to R125) -/

theorem exec_tbStart (s : State) : exec .tbStart s = .next { s with tbArmed := true } := rfl

theorem exec_tbSwReset (s : State) : exec .tbSwReset s = .next { s with stopwatch := 0 } := rfl

theorem exec_tbSwRead (s : State) : exec .tbSwRead s = .next { s with ret := .count s.stopwatch } :=
  rfl

theorem beginSleep_zero (s : State) : beginSleep 0 s = { s with countdown := 0, sleeping := false } :=
  rfl

theorem beginSleep_pos {n : Nat} (hn : 0 < n) (s : State) :
    beginSleep n s = { s with countdown := n, sleeping := true } := by
  rw [beginSleep, decide_eq_true hn.ne']

theorem exec_tbSleep_inRange {n : Nat} {s : State} (h : n < 2 ^ s.cfg.wCountdown) :
    exec (.tbSleep n) s = .next (beginSleep n s) :=
  if_pos h

theorem exec_tbSleep_outOfRange {n : Nat} {s : State} (h : 2 ^ s.cfg.wCountdown ≤ n) :
    exec (.tbSleep n) s = .refused (.sleepOperandOutOfRange n) :=
  if_neg h.not_gt

/-- Settles O10: the operand of TB.SLEEP is zero, in range or refused. -/
theorem timebaseOperations : Obligations.TimebaseOperations := by
  intro s
  refine ⟨exec_tbStart s, exec_tbSwReset s, exec_tbSwRead s, ?sleepZero, ?sleepPos, ?sleepRefused⟩
  case sleepZero =>
    have hrange : 0 < 2 ^ s.cfg.wCountdown := Nat.two_pow_pos _
    rw [exec_tbSleep_inRange hrange, beginSleep_zero]
  case sleepPos =>
    intro n hn hrange
    rw [exec_tbSleep_inRange hrange, beginSleep_pos hn]
  case sleepRefused => exact fun n hrange => exec_tbSleep_outOfRange hrange

/-! ### A run of ticks -/

/-- Ticks write the three counters only. -/
theorem iterate_tickCounters_frame (k : Nat) (s : State) :
    tickCounters^[k] s = { s with
      ticks := (tickCounters^[k] s).ticks, countdown := (tickCounters^[k] s).countdown
      stopwatch := (tickCounters^[k] s).stopwatch } := by
  induction k generalizing s with
  | zero => rfl
  | succ k ih =>
    rw [Function.iterate_succ_apply]
    exact ih (tickCounters s)

theorem iterate_tickCounters_countdown (k : Nat) (s : State) :
    (tickCounters^[k] s).countdown = s.countdown - k := by
  induction k with
  | zero => rfl
  | succ k ih => rw [Function.iterate_succ_apply', tickCounters_countdown_eq_sub, ih, Nat.sub_sub]

/-- From a stopwatch within its width, `k` ticks add `k` modulo that width. -/
theorem iterate_tickCounters_stopwatch (k : Nat) {s : State}
    (h : s.stopwatch < 2 ^ s.cfg.wStopwatch) :
    (tickCounters^[k] s).stopwatch = (s.stopwatch + k) % 2 ^ s.cfg.wStopwatch := by
  induction k with
  | zero => exact (Nat.mod_eq_of_lt h).symm
  | succ k ih =>
    have hcfg : (tickCounters^[k] s).cfg = s.cfg := by rw [iterate_tickCounters_frame]
    rw [Function.iterate_succ_apply', tickCounters_stopwatch, hcfg, ih, Nat.mod_add_mod, Nat.add_assoc]

/-- Once armed, a schedule of `k` ticks is `k` times the handler's updates, and none is lost (D5). -/
theorem runSteps_replicate_tick (k : Nat) {s : State} (harmed : s.tbArmed = true) :
    runSteps k { s with sched := List.replicate k .tick } =
      .next { tickCounters^[k] s with sched := [] } := by
  induction k generalizing s with
  | zero => rfl
  | succ k ih =>
    have hstep : step { s with sched := List.replicate (k + 1) .tick } =
        .next { tickCounters s with sched := List.replicate k .tick } :=
      step_tick_armed (s := { s with sched := .tick :: List.replicate k .tick }) rfl harmed
    rw [runSteps, hstep, andThen_next]
    exact ih (s := tickCounters s) harmed

/-- One poll of the wait goes on waiting exactly while the countdown is above zero (R123). -/
theorem pollSleep_sleeping {s : State} (h : s.sleeping = true) :
    (pollSleep s).sleeping = decide (0 < s.countdown) := by
  unfold pollSleep
  split
  · next hzero => rw [hzero]; rfl
  · next hne => rw [h, decide_eq_true (Nat.pos_of_ne_zero hne)]

/-- Inside the wait the foreground's turn is a poll. -/
theorem step_poll {s : State} (hsched : s.sched = []) (hsleeping : s.sleeping = true) :
    step s = .next (pollSleep s) :=
  (nextMove_nil hsched).trans (if_pos hsleeping)

/-- Settles O11: each of the `k` ticks takes one off the countdown, and the poll after them looks at
what is left. -/
theorem sleepLastsItsTicks : Obligations.SleepLastsItsTicks := by
  intro s n k hn hrange hk harmed
  let t : State := { s with countdown := n, sleeping := true }
  let u : State := { tickCounters^[k] t with sched := [] }
  have hload : exec (.tbSleep n) s = .next t := by rw [exec_tbSleep_inRange hrange, beginSleep_pos hn]
  have hticks : runSteps k { t with sched := List.replicate k .tick } = .next u :=
    runSteps_replicate_tick k harmed
  have hcountdown : u.countdown = n - k := iterate_tickCounters_countdown k t
  have hsleeping : u.sleeping = true := congrArg State.sleeping (iterate_tickCounters_frame k t)
  have hpoll : (pollSleep u).sleeping = decide (k < n) := by
    rw [pollSleep_sleeping hsleeping, hcountdown]
    exact decide_eq_decide.mpr Nat.sub_pos_iff_lt
  exact ⟨t, u, pollSleep u, hload, hticks, hcountdown, hsleeping, rfl, step_poll rfl hsleeping, hpoll,
    pollSleep_frame u⟩

/-- Settles O12: the stopwatch starts from zero, and each tick adds one modulo its width. -/
theorem stopwatchCountsTicks : Obligations.StopwatchCountsTicks := by
  intro s n harmed
  let t : State := { s with stopwatch := 0 }
  have hticks : runSteps n { t with sched := List.replicate n .tick } =
      .next { tickCounters^[n] t with sched := [] } := runSteps_replicate_tick n harmed
  have hcount : (tickCounters^[n] t).stopwatch = n % 2 ^ s.cfg.wStopwatch := by
    rw [iterate_tickCounters_stopwatch n (Nat.two_pow_pos _), Nat.zero_add]
  exact ⟨t, _, _, exec_tbSwReset s, hticks, exec_tbSwRead _, congrArg Ret.count hcount⟩

end Sys2Proof.Machine
end

section
/-! PROOFS. The rows of the decoder (41_midi_decoder.md R141): each encoded row forwards its byte in
passthrough and runs the clause of its class outside it, and `MD.BYTE` does the same for the class that
it reads from the byte. -/

namespace Sys2Proof.Machine

/-! ### The clause of a class -/

/-- What a byte of class `k` does outside passthrough: clauses 2 and 3 of R141. -/
def classClause (k : ByteClass) (b : Byte) (s : State) : State :=
  match k.kind with
  | .withArgs n => awaitArgs b n s
  | .immediate => immediate k s
  | .startPassthrough => enterPassthrough s
  | .endPassthrough => exitPassthrough s
  | .unlisted => toIdle s
  | .data => dataByte b s

theorem classClause_withArgs {k : ByteClass} {n : Nat} (h : k.kind = .withArgs n) (b : Byte)
    (s : State) : classClause k b s = awaitArgs b n s := by
  simp only [classClause, h]

theorem unlessPassthrough_normal {s : State} (h : s.mode = .normal) (b : Byte)
    (f : State → State) : unlessPassthrough b f s = f s := by
  simp only [unlessPassthrough, h]

theorem unlessPassthrough_passthrough {s : State} (h : s.mode = .passthrough) (b : Byte)
    (f : State → State) : unlessPassthrough b f s = forward b s := by
  simp only [unlessPassthrough, h]

/-- `MD.BYTE` is clause 1, or the clause of the byte's class. -/
theorem byteStep_eq (b : Byte) (s : State) :
    byteStep b s =
      if s.mode = .passthrough ∧ b ≠ s.cfg.status.endMarker then forward b s
      else classClause (classify s.cfg.status b) b s := rfl

theorem byteStep_normal {s : State} (h : s.mode = .normal) (b : Byte) :
    byteStep b s = classClause (classify s.cfg.status b) b s := by
  rw [byteStep_eq, if_neg (by simp [h])]

/-- A byte that is not the end marker's. -/
theorem byteStep_of_ne_endMarker {b : Byte} {s : State} (h : b ≠ s.cfg.status.endMarker) :
    byteStep b s = unlessPassthrough b (classClause (classify s.cfg.status b) b) s := by
  cases hmode : s.mode with
  | normal => rw [byteStep_normal hmode, unlessPassthrough_normal hmode]
  | passthrough =>
    rw [byteStep_eq, if_pos ⟨hmode, h⟩, unlessPassthrough_passthrough hmode]

theorem classify_endMarker {m : StatusMap} (hwf : m.wf = true) :
    classify m m.endMarker = .vendorEnd :=
  classify_systemByte hwf (by decide)

/-- R148: the end marker leaves passthrough in every state. -/
theorem byteStep_endMarker {s : State} (hwf : s.cfg.status.wf = true) :
    byteStep s.cfg.status.endMarker s = exitPassthrough s := by
  rw [byteStep_eq, if_neg (by simp), classify_endMarker hwf]
  rfl

/-! ### The meaning of each row -/

/-- The row `i` with the class `k`: forwarded in passthrough, the clause of `k` outside it; under a
legal map its byte is of the class `k`. -/
def IsRowOf (k : ByteClass) (i : Instr) : Prop :=
  ∀ (s : State) (b : Byte), encode s.cfg.status i = [b] →
    exec i s = .next (unlessPassthrough b (classClause k b) s) ∧
    (s.cfg.status.wf = true → classify s.cfg.status b = k)

/-- A row whose byte the status map gives. -/
theorem IsRowOf.of_byte {k : ByteClass} {i : Instr} (byteOf : StatusMap → Byte)
    (hencode : ∀ m, encode m i = [byteOf m])
    (hclass : ∀ m : StatusMap, m.wf = true → classify m (byteOf m) = k)
    (hexec : ∀ s, exec i s = .next
      (unlessPassthrough (byteOf s.cfg.status) (classClause k (byteOf s.cfg.status)) s)) :
    IsRowOf k i := by
  intro s b hb
  obtain rfl : byteOf s.cfg.status = b := by simpa [hencode] using hb
  exact ⟨hexec s, hclass _⟩

theorem IsRowOf.channel {k : ByteClass} {i : Instr} (c : BitVec 4) (hk : k ∈ channelClasses)
    (hencode : ∀ m, encode m i = [m.channelByte k c])
    (hexec : ∀ s, exec i s = .next (unlessPassthrough (s.cfg.status.channelByte k c)
      (classClause k (s.cfg.status.channelByte k c)) s)) : IsRowOf k i :=
  .of_byte (fun m => m.channelByte k c) hencode (fun _ hwf => (classify_channelByte hwf hk c).1) hexec

theorem IsRowOf.system {k : ByteClass} {i : Instr} (hk : k ∈ systemClasses)
    (hencode : ∀ m, encode m i = [m.systemByte k])
    (hexec : ∀ s, exec i s = .next (unlessPassthrough (s.cfg.status.systemByte k)
      (classClause k (s.cfg.status.systemByte k)) s)) : IsRowOf k i :=
  .of_byte (fun m => m.systemByte k) hencode (fun _ hwf => classify_systemByte hwf hk) hexec

theorem operand_msb : ∀ d : BitVec 7, (d.setWidth 8).msb = false := by decide

theorem classify_operand (m : StatusMap) (d : BitVec 7) : classify m (d.setWidth 8) = .data :=
  if_pos (operand_msb d)

theorem IsRowOf.dataRow (d : BitVec 7) : IsRowOf .data (.data d) :=
  .of_byte (fun _ => d.setWidth 8) (fun _ => rfl) (fun m _ => classify_operand m d) fun _ => rfl

/-- Every row with an encoding but the end marker's has a class (30_encoding.md R93). -/
theorem isRowOf_of_encode {m : StatusMap} {i : Instr} {b : Byte} (hbytes : encode m i = [b])
    (hend : i ≠ .vendorEnd) : ∃ k, IsRowOf k i := by
  cases i with
  | noteOff c => exact ⟨.noteOff, .channel c (by decide) (fun _ => rfl) fun _ => rfl⟩
  | noteOn c => exact ⟨.noteOn, .channel c (by decide) (fun _ => rfl) fun _ => rfl⟩
  | polyPressure c => exact ⟨.polyPressure, .channel c (by decide) (fun _ => rfl) fun _ => rfl⟩
  | controlChange c => exact ⟨.controlChange, .channel c (by decide) (fun _ => rfl) fun _ => rfl⟩
  | programChange c => exact ⟨.programChange, .channel c (by decide) (fun _ => rfl) fun _ => rfl⟩
  | channelPressure c => exact ⟨.channelPressure, .channel c (by decide) (fun _ => rfl) fun _ => rfl⟩
  | pitchBend c => exact ⟨.pitchBend, .channel c (by decide) (fun _ => rfl) fun _ => rfl⟩
  | vendorStart => exact ⟨.vendorStart, .system (by decide) (fun _ => rfl) fun _ => rfl⟩
  | unlistedF1 => exact ⟨.unlistedF1, .system (by decide) (fun _ => rfl) fun _ => rfl⟩
  | songPosition => exact ⟨.songPosition, .system (by decide) (fun _ => rfl) fun _ => rfl⟩
  | songSelect => exact ⟨.songSelect, .system (by decide) (fun _ => rfl) fun _ => rfl⟩
  | unlistedF4 => exact ⟨.unlistedF4, .system (by decide) (fun _ => rfl) fun _ => rfl⟩
  | unlistedF5 => exact ⟨.unlistedF5, .system (by decide) (fun _ => rfl) fun _ => rfl⟩
  | tuneRequest => exact ⟨.tuneRequest, .system (by decide) (fun _ => rfl) fun _ => rfl⟩
  | vendorEnd => exact absurd rfl hend
  | clock => exact ⟨.clock, .system (by decide) (fun _ => rfl) fun _ => rfl⟩
  | unlistedF9 => exact ⟨.unlistedF9, .system (by decide) (fun _ => rfl) fun _ => rfl⟩
  | start => exact ⟨.start, .system (by decide) (fun _ => rfl) fun _ => rfl⟩
  | cont => exact ⟨.cont, .system (by decide) (fun _ => rfl) fun _ => rfl⟩
  | stop => exact ⟨.stop, .system (by decide) (fun _ => rfl) fun _ => rfl⟩
  | unlistedFD => exact ⟨.unlistedFD, .system (by decide) (fun _ => rfl) fun _ => rfl⟩
  | activeSense => exact ⟨.activeSense, .system (by decide) (fun _ => rfl) fun _ => rfl⟩
  | systemReset => exact ⟨.systemReset, .system (by decide) (fun _ => rfl) fun _ => rfl⟩
  | data d => exact ⟨.data, .dataRow d⟩
  | _ => cases hbytes

/-- Settles O15: outside the end marker's row the byte meets clause 1. -/
theorem passthroughForwards : Obligations.PassthroughForwards := by
  intro s i b hmode hbytes hend
  obtain ⟨k, hrow⟩ := isRowOf_of_encode hbytes hend
  rw [(hrow s b hbytes).1, unlessPassthrough_passthrough hmode]
  rfl

/-- Under a legal map an encoded row does what `MD.BYTE` of its byte does. -/
theorem exec_of_encode {i : Instr} {b : Byte} {s : State} (hwf : s.cfg.status.wf = true)
    (hbytes : encode s.cfg.status i = [b]) : exec i s = .next (byteStep b s) := by
  by_cases hend : i = .vendorEnd
  · obtain rfl : s.cfg.status.endMarker = b := by rw [hend] at hbytes; exact List.singleton_inj.mp hbytes
    rw [hend, byteStep_endMarker hwf]
    rfl
  · have hne : b ≠ s.cfg.status.endMarker := by
      rintro rfl
      have hrow : Instr.vendorEnd = decodeByte s.cfg.status s.cfg.status.endMarker :=
        eq_decodeByte_of_encode hwf rfl
      exact hend ((eq_decodeByte_of_encode hwf hbytes).trans hrow.symm)
    obtain ⟨k, hrow⟩ := isRowOf_of_encode hbytes hend
    obtain ⟨hexec, hclass⟩ := hrow s b hbytes
    rw [hexec, byteStep_of_ne_endMarker hne, hclass hwf]

/-- Settles O7: a byte is its row's encoding. -/
theorem mdByteIsItsRow : Obligations.MdByteIsItsRow :=
  fun b _ hwf => (exec_of_encode hwf (encode_decodeByte hwf b)).symm

/-! ### A status byte with arguments -/

/-- The channel bytes of the map of R93 as numbers. -/
theorem channelByte_eq_add : ∀ (p : Fin 7) (c : BitVec 4),
    BitVec.ofNat 4 (8 + p.val) ++ c = BitVec.ofNat 8 (0x80 + 16 * p.val) + c.setWidth 8 := by decide

/-- A row that waits for `n` arguments outside passthrough; `byte` is its byte in the map of R93. -/
theorem awaits_of_byte {i : Instr} {n : Nat} {byte : Byte} {s : State} (hmode : s.mode = .normal)
    (byteOf : StatusMap → Byte) (hencode : ∀ m, encode m i = [byteOf m]) (hmidi : byteOf .midi = byte)
    (hexec : exec i s = .next
      (unlessPassthrough (byteOf s.cfg.status) (awaitArgs (byteOf s.cfg.status) n) s)) :
    ∃ b, encode s.cfg.status i = [b] ∧ (s.cfg.status = .midi → b = byte) ∧
      exec i s = .next { s with pendingEvent := some b, bytesNeeded := n, bytesReceived := 0 } := by
  refine ⟨byteOf s.cfg.status, hencode _, fun hmap => by rw [hmap, hmidi], ?_⟩
  rw [hexec, unlessPassthrough_normal hmode]
  rfl

/-- Settles O14, row by row: seven channel classes and two full bytes. -/
theorem statusBytesAwaitArguments : Obligations.StatusBytesAwaitArguments := by
  intro s c i n byte hmode hrow
  simp only [List.mem_cons, List.not_mem_nil, or_false, Prod.mk.injEq] at hrow
  rcases hrow with ⟨rfl, rfl, rfl⟩ | ⟨rfl, rfl, rfl⟩ | ⟨rfl, rfl, rfl⟩ | ⟨rfl, rfl, rfl⟩ |
    ⟨rfl, rfl, rfl⟩ | ⟨rfl, rfl, rfl⟩ | ⟨rfl, rfl, rfl⟩ | ⟨rfl, rfl, rfl⟩ | ⟨rfl, rfl, rfl⟩
  · exact awaits_of_byte hmode (·.channelByte .noteOff c) (fun _ => rfl) (channelByte_eq_add 0 c) rfl
  · exact awaits_of_byte hmode (·.channelByte .noteOn c) (fun _ => rfl) (channelByte_eq_add 1 c) rfl
  · exact awaits_of_byte hmode (·.channelByte .polyPressure c) (fun _ => rfl)
      (channelByte_eq_add 2 c) rfl
  · exact awaits_of_byte hmode (·.channelByte .controlChange c) (fun _ => rfl)
      (channelByte_eq_add 3 c) rfl
  · exact awaits_of_byte hmode (·.channelByte .programChange c) (fun _ => rfl)
      (channelByte_eq_add 4 c) rfl
  · exact awaits_of_byte hmode (·.channelByte .channelPressure c) (fun _ => rfl)
      (channelByte_eq_add 5 c) rfl
  · exact awaits_of_byte hmode (·.channelByte .pitchBend c) (fun _ => rfl)
      (channelByte_eq_add 6 c) rfl
  · exact awaits_of_byte hmode (·.systemByte .songPosition) (fun _ => rfl) (by decide) rfl
  · exact awaits_of_byte hmode (·.systemByte .songSelect) (fun _ => rfl) (by decide) rfl

end Sys2Proof.Machine
end

section
/-! PROOFS. Handlers (41_midi_decoder.md R147, R176): what the one event of a byte leaves in the blob and
in `out`, the bytes that fire on their own (R144, R161 to R169), the vendor markers (R145, R148), and
what every byte keeps (R172, R174). -/

namespace Sys2Proof.Machine

/-! ### What a handler leaves -/

theorem handlerBlob_eq (e : MidiEvent) (s : State) :
    handlerBlob e s = if s.cfg.updateBlob then (eventBlob e s).blob else s.blob := by
  unfold handlerBlob handleBlob
  split <;> rfl

/-- The blob after the handler of an event that writes one byte. -/
theorem read_handlerBlob_of_write {e : MidiEvent} {i : Nat} {v : Byte} {s : State}
    (h : eventBlob e s = blobWrite i v s) (a : Nat) :
    Memory.read (handlerBlob e s) a =
      if s.cfg.updateBlob = true ∧ a = i then v else blobRead s a := by
  rw [handlerBlob_eq, h]
  split
  · next hupdate =>
    simp only [hupdate, true_and]
    exact blobRead_blobWrite i v s a
  · next hkept =>
    rw [if_neg fun hboth => hkept hboth.1]
    rfl

theorem handlerBlob_of_keeps {e : MidiEvent} {s : State} (h : eventBlob e s = s) :
    handlerBlob e s = s.blob := by
  rw [handlerBlob_eq, h, ite_self]

/-- An event that is not meaningful (R176): it sends no frame and writes no byte. -/
def SilentEvent (e : MidiEvent) : Prop := (∀ k, eventFrame k e = none) ∧ ∀ s, eventBlob e s = s

theorem SilentEvent.handlerFrames {e : MidiEvent} (h : SilentEvent e) (c : Config) :
    handlerFrames c e = [] := by
  rw [Machine.handlerFrames, h.1, Option.toList_none, ite_self]

theorem SilentEvent.handlerBlob {e : MidiEvent} (h : SilentEvent e) (s : State) :
    handlerBlob e s = s.blob :=
  handlerBlob_of_keeps (h.2 s)

/-- Firing an event that is not meaningful is its record alone. -/
theorem SilentEvent.fire {e : MidiEvent} (h : SilentEvent e) (s : State) :
    fire e s = { s with fired := s.fired ++ [e] } := by
  rw [fire_eq, h.handlerBlob, h.handlerFrames, List.append_nil]

/-! ### The vendor markers -/

theorem enterPassthrough_eq (s : State) :
    enterPassthrough s = { s with
      mode := .passthrough, pendingEvent := none, bytesNeeded := 0, bytesReceived := 0
      passthroughSink := s.passthroughSink ++ [.enter], fired := s.fired ++ [.passthroughEnter] } :=
  SilentEvent.fire ⟨fun _ => rfl, fun _ => rfl⟩ _

theorem exitPassthrough_eq (s : State) :
    exitPassthrough s = { s with
      mode := .normal, pendingEvent := none, bytesNeeded := 0, bytesReceived := 0
      passthroughSink := s.passthroughSink ++ [.exit], fired := s.fired ++ [.passthroughExit] } :=
  SilentEvent.fire ⟨fun _ => rfl, fun _ => rfl⟩ _

theorem exec_vendorStart {s : State} (hmode : s.mode = .normal) :
    exec .vendorStart s = .next (enterPassthrough s) :=
  congrArg Host.Outcome.next (unlessPassthrough_normal hmode _ _)

theorem exec_vendorEnd (s : State) : exec .vendorEnd s = .next (exitPassthrough s) := rfl

/-- Settles O18: the hook of a marker and its event, which has no handler. -/
theorem vendorMarkers : Obligations.VendorMarkers := by
  intro s
  refine ⟨fun hmode => ?start, ?finish⟩
  case start => rw [exec_vendorStart hmode, enterPassthrough_eq]
  case finish => rw [exec_vendorEnd, exitPassthrough_eq]

/-! ### Bytes that fire on their own -/

/-- A zero-argument class: the event's record and handler, then `Idle` (R144). -/
theorem immediate_eq {k : ByteClass} {e : MidiEvent} (h : immediateEvent k = some e) (s : State) :
    immediate k s = { s with
      pendingEvent := none, bytesNeeded := 0, bytesReceived := 0, fired := s.fired ++ [e]
      blob := handlerBlob e s, out := s.out ++ handlerFrames s.cfg e } := by
  rw [immediate, h, fireOpt_some, fire_eq]
  rfl

/-- The row `i` fires the event `e` of the zero-argument class `k`. -/
def FiresOnItsOwn (i : Instr) (k : ByteClass) (e : MidiEvent) : Prop :=
  immediateEvent k = some e ∧
    ∀ s, exec i s = .next (systemStatus k (fun _ => immediate k) s)

theorem FiresOnItsOwn.exec {i : Instr} {k : ByteClass} {e : MidiEvent} {s : State}
    (h : FiresOnItsOwn i k e) (hmode : s.mode = .normal) :
    exec i s = .next { s with
      pendingEvent := none, bytesNeeded := 0, bytesReceived := 0, fired := s.fired ++ [e]
      blob := handlerBlob e s, out := s.out ++ handlerFrames s.cfg e } := by
  rw [h.2, systemStatus, unlessPassthrough_normal hmode, immediate_eq h.1]

theorem FiresOnItsOwn.exec_silent {i : Instr} {k : ByteClass} {e : MidiEvent} {s : State}
    (h : FiresOnItsOwn i k e) (hsilent : SilentEvent e) (hmode : s.mode = .normal) :
    Machine.exec i s = .next { s with
      pendingEvent := none, bytesNeeded := 0, bytesReceived := 0, fired := s.fired ++ [e] } := by
  rw [h.exec hmode, hsilent.handlerBlob, hsilent.handlerFrames, List.append_nil]

theorem exec_unlisted {i : Instr} {k : ByteClass} {s : State}
    (h : exec i s = .next (systemStatus k (fun _ => toIdle) s)) (hmode : s.mode = .normal) :
    exec i s = .next { s with pendingEvent := none, bytesNeeded := 0, bytesReceived := 0 } := by
  rw [h, systemStatus, unlessPassthrough_normal hmode]
  rfl

/-- Settles O17: three events without a handler, and the five unlisted bytes. -/
theorem bytesThatOnlyGoIdle : Obligations.BytesThatOnlyGoIdle := by
  intro s hmode
  have htune : FiresOnItsOwn .tuneRequest .tuneRequest .tuneRequest := ⟨rfl, fun _ => rfl⟩
  have hsense : FiresOnItsOwn .activeSense .activeSense .activeSense := ⟨rfl, fun _ => rfl⟩
  have hreset : FiresOnItsOwn .systemReset .systemReset .systemReset := ⟨rfl, fun _ => rfl⟩
  refine ⟨htune.exec_silent ⟨fun _ => rfl, fun _ => rfl⟩ hmode,
    hsense.exec_silent ⟨fun _ => rfl, fun _ => rfl⟩ hmode,
    hreset.exec_silent ⟨fun _ => rfl, fun _ => rfl⟩ hmode, fun i hi => ?unlisted⟩
  case unlisted =>
    simp only [List.mem_cons, List.not_mem_nil, or_false] at hi
    rcases hi with rfl | rfl | rfl | rfl | rfl
    · exact exec_unlisted (k := .unlistedF1) rfl hmode
    · exact exec_unlisted (k := .unlistedF4) rfl hmode
    · exact exec_unlisted (k := .unlistedF5) rfl hmode
    · exact exec_unlisted (k := .unlistedF9) rfl hmode
    · exact exec_unlisted (k := .unlistedFD) rfl hmode

/-- A transport byte whose handler writes `v` to the sync position. -/
theorem FiresOnItsOwn.exec_sync {i : Instr} {k : ByteClass} {e : MidiEvent} {v : Byte} {s : State}
    (h : FiresOnItsOwn i k e) (hblob : eventBlob e s = blobWrite syncIndex v s)
    (hmode : s.mode = .normal) :
    ∃ t, Machine.exec i s = .next t ∧ t.fired = s.fired ++ [e] ∧
      t.out = s.out ++ handlerFrames s.cfg e ∧
      blobRead t 21 = (if s.cfg.updateBlob then v else blobRead s 21) ∧
      (∀ a, a ≠ 21 → blobRead t a = blobRead s a) ∧
      t = { s with
        pendingEvent := none, bytesNeeded := 0, bytesReceived := 0, fired := t.fired, out := t.out
        blob := t.blob } := by
  refine ⟨_, h.exec hmode, rfl, rfl, ?sync, fun a ha => ?other, rfl⟩
  case sync =>
    refine (read_handlerBlob_of_write hblob 21).trans ?_
    simp only [syncIndex, and_true]
  case other => exact (read_handlerBlob_of_write hblob a).trans (if_neg fun hsync => ha hsync.2)

/-- R194: the byte that the clock's handler writes. -/
theorem syncNext_toNat (sync : Byte) : (BitVec.ofNat 8 ((sync.toNat + 1) % 24)).toNat =
    (sync.toNat + 1) % 24 := by
  rw [BitVec.toNat_ofNat]
  omega

/-- Settles O16: the clock moves the sync position, start and continue clear it, stop leaves the
blob. -/
theorem transportBytes : Obligations.TransportBytes := by
  intro s hwf hmode
  have hclock : FiresOnItsOwn .clock .clock .clock := ⟨rfl, fun _ => rfl⟩
  have hstart : FiresOnItsOwn .start .start .start := ⟨rfl, fun _ => rfl⟩
  have hcont : FiresOnItsOwn .cont .cont .cont := ⟨rfl, fun _ => rfl⟩
  have hstop : FiresOnItsOwn .stop .stop .stop := ⟨rfl, fun _ => rfl⟩
  refine ⟨?clock, hstart.exec_sync rfl hmode, hcont.exec_sync rfl hmode, ?stop⟩
  case clock =>
    obtain ⟨t, hexec, hfired, hout, hsync, hother, hframe⟩ := hclock.exec_sync (s := s) rfl hmode
    refine ⟨t, hexec, hfired, hout, ?_, hother, hframe⟩
    rw [hsync, apply_ite BitVec.toNat, Config.wf_syncModulus hwf]
    exact congrArg (fun n => if s.cfg.updateBlob = true then n else (blobRead s 21).toNat)
      (syncNext_toNat (blobRead s 21))
  case stop =>
    refine ⟨_, hstop.exec hmode, rfl, rfl, ?_⟩
    rw [handlerBlob_of_keeps rfl]

/-! ### What every byte keeps -/

/-- From `s` to `t` at most one event was fired, and the blob and `out` are what its handler makes of
them. -/
def AtMostOneHandler (s t : State) : Prop :=
  (t.fired = s.fired ∧ t.out = s.out ∧ t.blob = s.blob) ∨
    ∃ e, t.fired = s.fired ++ [e] ∧ t.out = s.out ++ handlerFrames s.cfg e ∧ t.blob = handlerBlob e s

theorem AtMostOneHandler.fireOpt (e : Option MidiEvent) (s : State) :
    AtMostOneHandler s (fireOpt e s) := by
  cases e with
  | none => exact .inl ⟨rfl, rfl, rfl⟩
  | some ev => rw [fireOpt_some, fire_eq]; exact .inr ⟨ev, rfl, rfl, rfl⟩

theorem AtMostOneHandler.dataByte (b : Byte) (s : State) : AtMostOneHandler s (dataByte b s) := by
  unfold Machine.dataByte complete
  split
  · exact .inl ⟨rfl, rfl, rfl⟩
  · split
    · split
      · exact .fireOpt _ s
      · exact .inl ⟨rfl, rfl, rfl⟩
    · exact .inl ⟨rfl, rfl, rfl⟩

/-- An event without a handler leaves the blob and `out`. -/
theorem AtMostOneHandler.of_silent {e : MidiEvent} {s t : State} (h : SilentEvent e)
    (hfired : t.fired = s.fired ++ [e]) (hout : t.out = s.out) (hblob : t.blob = s.blob) :
    AtMostOneHandler s t :=
  .inr ⟨e, hfired, by rw [h.handlerFrames, List.append_nil, hout], hblob.trans (h.handlerBlob s).symm⟩

theorem AtMostOneHandler.enterPassthrough (s : State) : AtMostOneHandler s (enterPassthrough s) := by
  rw [enterPassthrough_eq]
  exact .of_silent ⟨fun _ => rfl, fun _ => rfl⟩ rfl rfl rfl

theorem AtMostOneHandler.exitPassthrough (s : State) : AtMostOneHandler s (exitPassthrough s) := by
  rw [exitPassthrough_eq]
  exact .of_silent ⟨fun _ => rfl, fun _ => rfl⟩ rfl rfl rfl

/-- R174: clause by clause. -/
theorem byteStep_atMostOneHandler (b : Byte) (s : State) : AtMostOneHandler s (byteStep b s) := by
  unfold byteStep
  split
  · exact .inl ⟨rfl, rfl, rfl⟩
  · split
    · exact .inl ⟨rfl, rfl, rfl⟩
    · exact .fireOpt _ s
    · exact .enterPassthrough s
    · exact .exitPassthrough s
    · exact .inl ⟨rfl, rfl, rfl⟩
    · exact .dataByte b s

/-- The sink hears a forwarded byte or a hook (R142, R145, R148). -/
theorem byteStep_sink (b : Byte) (s : State) :
    (byteStep b s).passthroughSink = s.passthroughSink ∨
      ∃ x, (byteStep b s).passthroughSink = s.passthroughSink ++ [x] := by
  unfold byteStep
  split
  · exact .inr ⟨.byte b, rfl⟩
  · split
    · exact .inl rfl
    · exact .inl (by unfold immediate; rw [fireOpt_frame]; rfl)
    · exact .inr ⟨.enter, by rw [enterPassthrough_eq]⟩
    · exact .inr ⟨.exit, by rw [exitPassthrough_eq]⟩
    · exact .inl rfl
    · exact .inl (by rw [dataByte_frame])

/-- Settles O25: `MD.BYTE` is the byte's step, a total function. -/
theorem mdByteIsTotal : Obligations.MdByteIsTotal := by
  intro b s
  refine ⟨byteStep b s, rfl, ?handler, byteStep_sink b s, byteStep_frame b s⟩
  case handler =>
    rcases byteStep_atMostOneHandler b s with hnone | ⟨e, hfired, hout, hblob⟩
    · exact .inl hnone
    · exact .inr ⟨e, hfired, hout, hblob.trans (handlerBlob_eq e s)⟩

/-! ### A status byte discards a partial message -/

theorem kind_startPassthrough {k : ByteClass} (h : k.kind = .startPassthrough) : k = .vendorStart := by
  cases k <;> cases h
  rfl

theorem kind_endPassthrough {k : ByteClass} (h : k.kind = .endPassthrough) : k = .vendorEnd := by
  cases k <;> cases h
  rfl

theorem kind_data {k : ByteClass} (h : k.kind = .data) : k = .data := by
  cases k <;> cases h
  rfl

/-- The events of a status byte of the class `k` itself (R172). -/
def ownEvents (k : ByteClass) : List MidiEvent :=
  if k = .vendorStart then [.passthroughEnter]
  else if k = .vendorEnd then [.passthroughExit]
  else (immediateEvent k).toList

theorem ownEvents_withArgs {k : ByteClass} {n : Nat} (h : k.kind = .withArgs n) :
    ownEvents k = [] := by
  cases k <;> cases h <;> rfl

theorem ownEvents_immediate {k : ByteClass} (h : k.kind = .immediate) :
    ownEvents k = (immediateEvent k).toList := by
  cases k <;> cases h <;> rfl

theorem ownEvents_unlisted {k : ByteClass} (h : k.kind = .unlisted) : ownEvents k = [] := by
  cases k <;> cases h <;> rfl

/-- What a status byte `b` of the class `k` leaves of a partial message, and what it fires (R172). -/
structure StatusEffect (k : ByteClass) (b : Byte) (s t : State) : Prop where
  received : t.bytesReceived = 0
  lastData : t.lastDataByte = s.lastDataByte
  awaits : ∀ n, k.kind = .withArgs n → t.pendingEvent = some b ∧ t.bytesNeeded = n
  idle : (∀ n, k.kind ≠ .withArgs n) → t.pendingEvent = none ∧ t.bytesNeeded = 0
  fired : t.fired = s.fired ++ ownEvents k

/-- A class without arguments leaves `Idle`. -/
theorem StatusEffect.of_idle {k : ByteClass} {b : Byte} {s t : State}
    (hkind : ∀ n, k.kind ≠ .withArgs n) (received : t.bytesReceived = 0)
    (lastData : t.lastDataByte = s.lastDataByte) (idle : t.pendingEvent = none ∧ t.bytesNeeded = 0)
    (fired : t.fired = s.fired ++ ownEvents k) : StatusEffect k b s t :=
  ⟨received, lastData, fun n hn => absurd hn (hkind n), fun _ => idle, fired⟩

theorem StatusEffect.awaitArgs {k : ByteClass} {n : Nat} (hkind : k.kind = .withArgs n) (b : Byte)
    (s : State) : StatusEffect k b s (awaitArgs b n s) where
  received := rfl
  lastData := rfl
  awaits := fun _ hn => ⟨rfl, ByteKind.withArgs.inj (hkind.symm.trans hn)⟩
  idle := fun h => absurd hkind (h n)
  fired := by rw [ownEvents_withArgs hkind, List.append_nil]; rfl

theorem StatusEffect.immediate {k : ByteClass} (hkind : k.kind = .immediate) (b : Byte) (s : State) :
    StatusEffect k b s (immediate k s) := by
  refine .of_idle (by simp [hkind]) rfl ?_ ⟨rfl, rfl⟩ ?_
  · unfold Machine.immediate; rw [fireOpt_frame]; rfl
  · unfold Machine.immediate; rw [fireOpt_frame, ownEvents_immediate hkind]; rfl

/-- The clause of every class of a status byte. -/
theorem classClause_statusEffect {k : ByteClass} (hk : k ≠ .data) (b : Byte) (s : State) :
    StatusEffect k b s (classClause k b s) := by
  unfold classClause
  split
  · next n hkind => exact .awaitArgs hkind b s
  · next hkind => exact .immediate hkind b s
  · next hkind =>
    obtain rfl := kind_startPassthrough hkind
    rw [enterPassthrough_eq]
    exact .of_idle nofun rfl rfl ⟨rfl, rfl⟩ rfl
  · next hkind =>
    obtain rfl := kind_endPassthrough hkind
    rw [exitPassthrough_eq]
    exact .of_idle nofun rfl rfl ⟨rfl, rfl⟩ rfl
  · next hkind =>
    exact .of_idle (by simp [hkind]) rfl rfl ⟨rfl, rfl⟩
      (by rw [ownEvents_unlisted hkind, List.append_nil]; rfl)
  · next hkind => exact absurd (kind_data hkind) hk

/-- A byte of 128 or more is of no data class (30_encoding.md R94). -/
theorem classify_ne_data {m : StatusMap} (hwf : m.wf = true) {b : Byte} (hb : 128 ≤ b.toNat) :
    classify m b ≠ .data := by
  have hmsb : b.msb = true := BitVec.msb_eq_true_iff_two_mul_ge.mpr (by omega)
  intro hdata
  by_cases hnibble : b.extractLsb' 4 4 = 0xF#4
  · have hclass := (systemByte_classify hwf hmsb hnibble).1
    rw [hdata] at hclass
    exact absurd hclass (by decide)
  · have hclass := (channelByte_classify hwf hmsb hnibble).1
    rw [hdata] at hclass
    exact absurd hclass (by decide)

/-- Settles O24: the clause of the byte's class. -/
theorem statusByteDiscardsPartialMessage : Obligations.StatusByteDiscardsPartialMessage := by
  intro s i b hwf hmode hbytes hb
  have heffect := classClause_statusEffect (classify_ne_data hwf hb) b s
  refine ⟨classClause (classify s.cfg.status b) b s, ?_, heffect.received, heffect.lastData,
    heffect.awaits, heffect.idle, heffect.fired⟩
  rw [exec_of_encode hwf hbytes, byteStep_normal hmode]

end Sys2Proof.Machine
end

section
/-! PROOFS. Data bytes (41_midi_decoder.md R146, R150, R170): framing, the channel filter, and what a
completed message fires (R151 to R160, R176). -/

namespace Sys2Proof.Machine

/-! ### Framing and the filter -/

theorem exec_data {s : State} (hmode : s.mode = .normal) (d : BitVec 7) :
    exec (.data d) s = .next (dataByte (d.setWidth 8) s) :=
  congrArg Host.Outcome.next (unlessPassthrough_normal hmode _ _)

theorem dataByte_idle {s : State} (h : s.pendingEvent = none) (b : Byte) :
    dataByte b s = { s with lastDataByte := b } := by
  simp only [dataByte, h]

theorem dataByte_counts {e : Byte} {s : State} (hpending : s.pendingEvent = some e)
    (hmore : s.bytesReceived + 1 ≠ s.bytesNeeded) (b : Byte) :
    dataByte b s = { s with bytesReceived := s.bytesReceived + 1, lastDataByte := b } := by
  simp only [dataByte, hpending, if_neg hmore]

theorem dataByte_completes {e : Byte} {s : State} (h : Completing s e) (b : Byte) :
    dataByte b s = { complete e b s with bytesReceived := 0, lastDataByte := b } := by
  obtain ⟨_, hpending, hlast⟩ := h
  simp only [dataByte, hpending, if_pos hlast]

/-- The channel of a status byte, 1 to 16 (30_encoding.md R95). -/
theorem channelOf_toNat : ∀ e : Byte, (channelOf e).toNat = e.toNat % 16 + 1 := by decide

theorem channelOf_eq (e : Byte) : channelOf e = BitVec.ofNat 8 (e.toNat % 16 + 1) := by
  rw [← channelOf_toNat, BitVec.ofNat_toNat, BitVec.setWidth_eq]

/-- The decoder's test of the filter is R150. -/
theorem accept_iff_filterPasses (s : State) (e : Byte) :
    accept s.channelFilter e (channelOf e) = true ↔ FilterPasses s e := by
  have hzero : s.channelFilter = 0#8 ↔ s.channelFilter.toNat = 0 := BitVec.toNat_eq
  have hchannel : s.channelFilter = channelOf e ↔ s.channelFilter.toNat = e.toNat % 16 + 1 := by
    rw [BitVec.toNat_eq, channelOf_toNat]
  have hsystem : 0xF0#8 ≤ e ↔ 0xF0 ≤ e.toNat := BitVec.le_def
  simp only [accept, FilterPasses, Bool.or_eq_true, beq_iff_eq, decide_eq_true_eq, hzero, hchannel,
    hsystem, or_assoc]

theorem complete_filtered {s : State} {e : Byte} (h : ¬ FilterPasses s e) (b : Byte) :
    complete e b s = s :=
  if_neg fun haccept => h ((accept_iff_filterPasses s e).mp haccept)

theorem complete_passes {s : State} {e : Byte} (h : FilterPasses s e) (b : Byte) :
    complete e b s =
      fireOpt (completedEvent (channelOf e) s.lastDataByte b (classify s.cfg.status e)) s :=
  if_pos ((accept_iff_filterPasses s e).mpr h)

/-- A completed message that the filter does not pass only restarts the count (D10). -/
theorem dataByte_filtered {s : State} {e : Byte} (hcomplete : Completing s e)
    (hfilter : ¬ FilterPasses s e) (b : Byte) :
    dataByte b s = { s with bytesReceived := 0, lastDataByte := b } := by
  rw [dataByte_completes hcomplete, complete_filtered hfilter]

/-- A completed message that the filter passes fires its event. -/
theorem dataByte_fires {s : State} {e b : Byte} {ev : MidiEvent} (hcomplete : Completing s e)
    (hfilter : FilterPasses s e)
    (hevent : completedEvent (channelOf e) s.lastDataByte b (classify s.cfg.status e) = some ev) :
    dataByte b s = { s with
      bytesReceived := 0, lastDataByte := b, fired := s.fired ++ [ev]
      blob := handlerBlob ev s, out := s.out ++ handlerFrames s.cfg ev } := by
  rw [dataByte_completes hcomplete, complete_passes hfilter, hevent, fireOpt_some, fire_eq]

theorem exec_data_fires {s : State} {e : Byte} {d : BitVec 7} {ev : MidiEvent}
    (hcomplete : Completing s e) (hfilter : FilterPasses s e)
    (hevent : completedEvent (channelOf e) s.lastDataByte (d.setWidth 8)
      (classify s.cfg.status e) = some ev) :
    exec (.data d) s = .next { s with
      bytesReceived := 0, lastDataByte := d.setWidth 8, fired := s.fired ++ [ev]
      blob := handlerBlob ev s, out := s.out ++ handlerFrames s.cfg ev } := by
  rw [exec_data hcomplete.1, dataByte_fires hcomplete hfilter hevent]

/-- Settles O19: the three framing cases. -/
theorem dataByteFraming : Obligations.DataByteFraming := by
  intro s d hmode
  rw [exec_data hmode]
  refine ⟨fun hidle => ?idle, fun e hpending hmore => ?counts, fun e hcomplete hfilter => ?filtered⟩
  case idle => rw [dataByte_idle hidle]
  case counts => rw [dataByte_counts hpending hmore]
  case filtered => rw [dataByte_filtered hcomplete hfilter]

/-! ### Arguments of frames -/

theorem byteArg_eq (b : Byte) : byteArg b = .int (BitVec.ofNat 32 b.toNat) := by
  rw [byteArg, BitVec.ofNat_toNat]

theorem byteArg_channelOf (e : Byte) :
    byteArg (channelOf e) = .int (BitVec.ofNat 32 (e.toNat % 16 + 1)) := by
  rw [byteArg_eq, channelOf_toNat]

theorem byteArg_operand (d : BitVec 7) :
    byteArg (d.setWidth 8) = .int (BitVec.ofNat 32 d.toNat) := by
  rw [byteArg_eq, BitVec.toNat_setWidth_of_le (by decide)]

/-! ### Messages that only fire -/

/-- A completed message without a handler. -/
theorem exec_data_silent {s : State} {e : Byte} {d : BitVec 7} {ev : MidiEvent}
    (hcomplete : Completing s e) (hfilter : FilterPasses s e) (hsilent : SilentEvent ev)
    (hevent : completedEvent (channelOf e) s.lastDataByte (d.setWidth 8)
      (classify s.cfg.status e) = some ev) :
    exec (.data d) s = .next { s with
      bytesReceived := 0, lastDataByte := d.setWidth 8, fired := s.fired ++ [ev] } := by
  rw [exec_data_fires hcomplete hfilter hevent, hsilent.handlerBlob, hsilent.handlerFrames,
    List.append_nil]

/-- Settles O22: the five classes without a handler. -/
theorem completedSilentMessage : Obligations.CompletedSilentMessage := by
  intro s e d ev hcomplete hfilter hclass
  simp only [← channelOf_eq] at hclass
  rcases hclass with ⟨hk, rfl⟩ | ⟨hk, rfl⟩ | ⟨hk, rfl⟩ | ⟨hk, rfl⟩ | ⟨hk, rfl⟩
  all_goals
    refine exec_data_silent hcomplete hfilter ⟨fun _ => rfl, fun _ => rfl⟩ ?_
    rw [hk]
    rfl

/-! ### Note messages -/

/-- The event of a note message of the class `k`: a note-on only with a velocity above zero
(30_encoding.md R97). -/
def noteEvent (k : ByteClass) (ch note : Byte) (d : BitVec 7) : MidiEvent :=
  if k = .noteOn ∧ d ≠ 0#7 then .noteOn ch note (d.setWidth 8) else .noteOff ch note (d.setWidth 8)

theorem operand_eq_zero : ∀ d : BitVec 7, d.setWidth 8 = 0#8 ↔ d = 0#7 := by decide

theorem completedEvent_note {k : ByteClass} (hk : k = .noteOff ∨ k = .noteOn) (ch note : Byte)
    (d : BitVec 7) : completedEvent ch note (d.setWidth 8) k = some (noteEvent k ch note d) := by
  rcases hk with rfl | rfl
  · rfl
  · by_cases hd : d = 0#7
    · subst hd; rfl
    · simp [completedEvent, noteEvent, operand_eq_zero, hd]

/-- One frame for a note event (R176). -/
theorem handlerFrames_noteEvent (c : Config) (k : ByteClass) (ch note : Byte) (d : BitVec 7) :
    handlerFrames c (noteEvent k ch note d) =
      if c.forwardEvents then
        [⟨if k = .noteOn ∧ d ≠ 0#7 then "/mnon" else "/mnoff",
          [byteArg ch, byteArg note, byteArg (d.setWidth 8)]⟩]
      else [] := by
  unfold handlerFrames noteEvent
  by_cases hon : k = .noteOn ∧ d ≠ 0#7
  · simp only [if_pos hon]; rfl
  · simp only [if_neg hon]; rfl

/-- The byte of a note after `BL.NOTE_ON` or `BL.NOTE_OFF` (42_live_state_blob.md R191, R192). -/
def noteByte (held : Bool) (note old : Byte) : Byte :=
  if held then old ||| noteMask note else old &&& ~~~(noteMask note)

theorem getLsbD_noteByte (held : Bool) (note old : Byte) {k : Nat} (hk : k < 8) :
    (noteByte held note old).getLsbD k =
      if k = note.toNat % 8 then held else old.getLsbD k := by
  have hmask : (noteMask note).getLsbD k = decide (k = note.toNat % 8) :=
    getLsbD_noteMask note ⟨k, hk⟩
  cases held with
  | true =>
    show (old ||| noteMask note).getLsbD k = _
    rw [BitVec.getLsbD_or, hmask]
    split <;> simp [*]
  | false =>
    show (old &&& ~~~(noteMask note)).getLsbD k = _
    rw [BitVec.getLsbD_and, BitVec.getLsbD_not, hmask, decide_eq_true hk]
    split <;> simp [*]

theorem eventBlob_noteEvent (k : ByteClass) (ch note : Byte) (d : BitVec 7) (s : State) :
    eventBlob (noteEvent k ch note d) s =
      blobWrite (noteIndex note)
        (noteByte (decide (k = .noteOn ∧ d ≠ 0#7)) note (blobRead s (noteIndex note))) s := by
  unfold noteEvent
  by_cases hon : k = .noteOn ∧ d ≠ 0#7
  · rw [if_pos hon, decide_eq_true hon]; rfl
  · rw [if_neg hon, decide_eq_false hon]; rfl

/-- The bit of the note follows the event, and no other bit of the 128 changes. -/
theorem noteHeld_handlerBlob (k : ByteClass) (ch note : Byte) (d : BitVec 7) {s t : State}
    (hblob : t.blob = handlerBlob (noteEvent k ch note d) s) {n : Nat} (hn : n < 128) :
    noteHeld t n =
      if s.cfg.updateBlob = true ∧ n = note.toNat % 128 then decide (k = .noteOn ∧ d ≠ 0#7)
      else noteHeld s n := by
  have hbyte : n / 8 = noteIndex note ↔ n / 8 = note.toNat / 8 % 16 := by rw [noteIndex_eq]
  have hnote : n = note.toNat % 128 ↔ n / 8 = note.toNat / 8 % 16 ∧ n % 8 = note.toNat % 8 := by omega
  unfold noteHeld
  rw [blobRead, hblob, read_handlerBlob_of_write (eventBlob_noteEvent k ch note d s)]
  simp only [hnote]
  by_cases hwritten : s.cfg.updateBlob = true ∧ n / 8 = noteIndex note
  · rw [if_pos hwritten, getLsbD_noteByte _ _ _ (Nat.mod_lt n (by decide)), ← hwritten.2]
    simp only [hwritten.1, hbyte.mp hwritten.2, true_and]
  · rw [if_neg hwritten, if_neg]
    exact fun ⟨hupdate, hindex, _⟩ => hwritten ⟨hupdate, hbyte.mpr hindex⟩

/-- A note event writes a note byte only. -/
theorem read_handlerBlob_noteEvent (k : ByteClass) (ch note : Byte) (d : BitVec 7) (s : State)
    {a : Nat} (ha : 16 ≤ a) :
    Memory.read (handlerBlob (noteEvent k ch note d) s) a = blobRead s a := by
  have hindex : noteIndex note < 16 := noteIndex_lt note
  rw [read_handlerBlob_of_write (eventBlob_noteEvent k ch note d s), if_neg]
  omega

/-- Settles O20: the one note event of the message, its handler's bit and its frame. -/
theorem completedNoteMessage : Obligations.CompletedNoteMessage := by
  intro s e d hcomplete hfilter hclass
  have hevent := completedEvent_note hclass (channelOf e) s.lastDataByte d
  refine ⟨_, exec_data_fires hcomplete hfilter hevent, ?fired, ?out,
    fun n hn => noteHeld_handlerBlob _ _ _ d rfl hn,
    fun a ha => read_handlerBlob_noteEvent _ _ _ d s ha, rfl⟩
  case fired => rw [← channelOf_eq]; rfl
  case out =>
    rw [handlerFrames_noteEvent, byteArg_channelOf, byteArg_eq, byteArg_operand]

/-! ### Control and program changes -/

theorem read_handlerBlob_controlChange (ch cc v : Byte) (s : State) (a : Nat) :
    Memory.read (handlerBlob (.controlChange ch cc v) s) a =
      if s.cfg.updateBlob = true ∧ 16 ≤ a ∧ s.cfg.ccSlot.toList[a - 16]? = some cc then v
      else blobRead s a := by
  rw [handlerBlob_eq]
  split
  · next hupdate =>
    simp only [hupdate, true_and]
    exact read_writeSlots cc v s.cfg.ccSlot.toList 16 s.blob a
  · next hkept => exact (if_neg fun hall => hkept hall.1).symm

/-- A controller writes the slots that are its own (42_live_state_blob.md R193). -/
theorem read_handlerBlob_slot (ch cc v : Byte) (s : State) (k : Fin 5) :
    Memory.read (handlerBlob (.controlChange ch cc v) s) (16 + k) =
      if s.cfg.updateBlob = true ∧ s.cfg.ccSlot[k] = cc then v else blobRead s (16 + k) := by
  have hslot : s.cfg.ccSlot.toList[16 + k.val - 16]? = some s.cfg.ccSlot[k] := by
    rw [Nat.add_sub_cancel_left]
    simp
  rw [read_handlerBlob_controlChange, hslot]
  simp only [Nat.le_add_right, true_and, Option.some.injEq]

theorem read_handlerBlob_outside_slots (ch cc v : Byte) (s : State) {a : Nat}
    (ha : a < 16 ∨ 21 ≤ a) :
    Memory.read (handlerBlob (.controlChange ch cc v) s) a = blobRead s a := by
  rw [read_handlerBlob_controlChange, if_neg]
  rintro ⟨_, hlow, hslot⟩
  have hlt : a - 16 < s.cfg.ccSlot.toList.length := (List.getElem?_eq_some_iff.mp hslot).1
  rw [Vector.length_toList] at hlt
  omega

/-- Settles O21: a controller's slots, the program byte. -/
theorem completedControlOrProgram : Obligations.CompletedControlOrProgram := by
  intro s e d hcomplete hfilter
  refine ⟨fun hclass => ?control, fun hclass => ?program⟩
  case control =>
    have hevent : completedEvent (channelOf e) s.lastDataByte (d.setWidth 8)
        (classify s.cfg.status e) =
          some (.controlChange (channelOf e) s.lastDataByte (d.setWidth 8)) := by rw [hclass]; rfl
    refine ⟨_, exec_data_fires hcomplete hfilter hevent, ?_, ?_,
      fun k => read_handlerBlob_slot _ _ _ s k,
      fun a ha => read_handlerBlob_outside_slots _ _ _ s ha, rfl⟩
    · rw [← channelOf_eq]
    · rw [← byteArg_channelOf, ← byteArg_eq, ← byteArg_operand]; rfl
  case program =>
    have hevent : completedEvent (channelOf e) s.lastDataByte (d.setWidth 8)
        (classify s.cfg.status e) = some (.programChange (channelOf e) (d.setWidth 8)) := by
      rw [hclass]; rfl
    have hread := read_handlerBlob_of_write (e := .programChange (channelOf e) (d.setWidth 8))
      (s := s) (i := programIndex) rfl
    refine ⟨_, exec_data_fires hcomplete hfilter hevent, ?_, ?_, ?_,
      fun a ha => (hread a).trans (if_neg fun hprogram => ha hprogram.2), rfl⟩
    · rw [← channelOf_eq]
    · rw [← byteArg_channelOf, ← byteArg_operand]; rfl
    · refine (hread 22).trans ?_
      simp only [programIndex, and_true]

end Sys2Proof.Machine
end

section
/-! PROOFS. Running status (41_midi_decoder.md R171, R178): a note message drained from the receive
buffer, byte by byte; and start-up (R140, 45_scheduler.md R273). -/

namespace Sys2Proof.Machine

/-! ### The drain -/

theorem runSteps_add (j k : Nat) (s : State) :
    runSteps (j + k) s = andThen (runSteps j s) (runSteps k) := by
  induction j generalizing s with
  | zero => rw [Nat.zero_add]; rfl
  | succ j ih =>
    rw [Nat.succ_add, runSteps, runSteps]
    cases step s with
    | next t => simp only [andThen_next, ih]
    | fault r => rfl
    | refused r => rfl

/-- The foreground fetches its next byte: at MIDI_DRAIN, awake, with no other move before it. -/
structure AtDrain (s : State) : Prop where
  sched : s.sched = []
  awake : s.sleeping = false
  pc : s.pc = .run .midiDrain

theorem AtDrain.step {s : State} (h : AtDrain s) {b : Byte} {rest : List Byte}
    (hrx : s.midiRx = b :: rest) :
    step s = exec (decodeByte s.cfg.status b) { s with midiRx := rest } := by
  simp only [nextMove_nil h.sched, foreground, h.awake, h.pc, runAction, drainAction, hrx,
    Bool.false_eq_true, if_false]

theorem operand_argument : ∀ d : BitVec 7, (d.setWidth 8).extractLsb' 0 7 = d := by decide

theorem decodeByte_operand (m : StatusMap) (d : BitVec 7) :
    decodeByte m (d.setWidth 8) = .data d := by
  rw [decodeByte_data m (operand_msb d), operand_argument]

/-- A data byte at the head of the buffer, outside passthrough. -/
theorem AtDrain.step_data {s : State} (h : AtDrain s) (hmode : s.mode = .normal) {d : BitVec 7}
    {rest : List Byte} (hrx : s.midiRx = d.setWidth 8 :: rest) :
    Machine.step s = .next (dataByte (d.setWidth 8) { s with midiRx := rest }) := by
  rw [h.step hrx, decodeByte_operand]
  exact exec_data (s := { s with midiRx := rest }) hmode d

/-- A byte at the head of the buffer, outside passthrough and under a legal map. -/
theorem AtDrain.step_byte {s : State} (h : AtDrain s) (hmode : s.mode = .normal)
    (hwf : s.cfg.status.wf = true) {b : Byte} {rest : List Byte} (hrx : s.midiRx = b :: rest) :
    Machine.step s = .next (classClause (classify s.cfg.status b) b { s with midiRx := rest }) := by
  rw [h.step hrx]
  exact (exec_of_encode (s := { s with midiRx := rest }) hwf (encode_decodeByte hwf b)).trans
    (congrArg Host.Outcome.next (byteStep_normal (s := { s with midiRx := rest }) hmode b))

/-! ### A pair of arguments -/

/-- A note message that completes fires its event when the filter passes its channel. -/
theorem dataByte_fired_note {s : State} {e : Byte} (hcomplete : Completing s e)
    (hnote : classify s.cfg.status e = .noteOff ∨ classify s.cfg.status e = .noteOn) (d : BitVec 7) :
    (dataByte (d.setWidth 8) s).fired = s.fired ++
      if accept s.channelFilter e (channelOf e) then
        [noteEvent (classify s.cfg.status e) (channelOf e) s.lastDataByte d]
      else [] := by
  by_cases hfilter : FilterPasses s e
  · rw [dataByte_fires hcomplete hfilter (completedEvent_note hnote _ _ d),
      (accept_iff_filterPasses s e).mpr hfilter]
    rfl
  · rw [dataByte_filtered hcomplete hfilter,
      if_neg fun haccept => hfilter ((accept_iff_filterPasses s e).mp haccept), List.append_nil]

/-- At the drain, with the status byte `b` pending and neither of its two arguments read: after the
status byte, and again after each pair under running status (R171). -/
structure AwaitsPair (b : Byte) (s : State) : Prop where
  drain : AtDrain s
  mode : s.mode = .normal
  pending : s.pendingEvent = some b
  needed : s.bytesNeeded = 2
  received : s.bytesReceived = 0

/-- Two data bytes at the head of the buffer are one message of the pending status byte, and leave the
decoder awaiting the next pair. -/
theorem AwaitsPair.runSteps_two {s : State} {b : Byte} (h : AwaitsPair b s)
    (hnote : classify s.cfg.status b = .noteOff ∨ classify s.cfg.status b = .noteOn)
    {n v : BitVec 7} {rest : List Byte} (hrx : s.midiRx = n.setWidth 8 :: v.setWidth 8 :: rest) :
    ∃ t, runSteps 2 s = .next t ∧ AwaitsPair b t ∧ t.midiRx = rest ∧ t.cfg = s.cfg ∧
      t.channelFilter = s.channelFilter ∧
      t.fired = s.fired ++
        if accept s.channelFilter b (channelOf b) then
          [noteEvent (classify s.cfg.status b) (channelOf b) (n.setWidth 8) v]
        else [] := by
  let u : State := { s with
    midiRx := v.setWidth 8 :: rest, bytesReceived := s.bytesReceived + 1, lastDataByte := n.setWidth 8 }
  let w : State := { u with midiRx := rest }
  have hfirst : step s = .next u := by
    have hmore : s.bytesReceived + 1 ≠ s.bytesNeeded := by simp [h.received, h.needed]
    rw [h.drain.step_data h.mode hrx]
    exact congrArg Host.Outcome.next 
      (dataByte_counts (s := { s with midiRx := v.setWidth 8 :: rest }) h.pending hmore _)
  have hsecond : step u = .next (dataByte (v.setWidth 8) w) :=
    AtDrain.step_data (s := u) ⟨h.drain.sched, h.drain.awake, h.drain.pc⟩ h.mode rfl
  have hcomplete : Completing w b := ⟨h.mode, h.pending, by simp [w, u, h.received, h.needed]⟩
  have hfired := dataByte_fired_note hcomplete hnote v
  have hreceived : (dataByte (v.setWidth 8) w).bytesReceived = 0 := by
    rw [dataByte_completes hcomplete]
  have hrun : runSteps 2 s = .next (dataByte (v.setWidth 8) w) := by
    simp only [runSteps, hfirst, hsecond, andThen_next]
  have hframe := dataByte_frame (v.setWidth 8) w
  refine ⟨_, hrun, ⟨⟨?_, ?_, ?_⟩, ?_, ?_, ?_, hreceived⟩, ?_, ?_, ?_, hfired⟩
  all_goals rw [hframe]
  · exact h.drain.sched
  · exact h.drain.awake
  · exact h.drain.pc
  · exact h.mode
  · exact h.pending
  · exact h.needed

/-! ### A note message under running status -/

/-- The byte of a channel class carries the channel field in its low nibble and is below 0xF0
(30_encoding.md R92, R95). -/
theorem channelByte_toNat {m : StatusMap} (hwf : m.wf = true) {k : ByteClass}
    (hk : k ∈ channelClasses) (c : BitVec 4) :
    (m.channelByte k c).toNat % 16 = c.toNat ∧ (m.channelByte k c).toNat < 0xF0 := by
  have hsum : ∀ (p : Fin 7) (c : BitVec 4),
      (BitVec.ofNat 4 (8 + p.val) ++ c).toNat % 16 = c.toNat ∧
        (BitVec.ofNat 4 (8 + p.val) ++ c).toNat < 0xF0 := by decide
  have hperm := (StatusMap.wf_perm hwf).1
  have hposition : positionOf k m.channel < 7 := by
    simpa [hperm.length_eq, channelClasses] using positionOf_lt (hperm.mem_iff.mpr hk)
  exact hsum ⟨positionOf k m.channel, hposition⟩ c

/-- A status byte and two pairs of data bytes at the head of the buffer, for either note class. -/
theorem runSteps_runningStatus {s : State} (hdrain : AtDrain s) (hmode : s.mode = .normal)
    (hwf : s.cfg.status.wf = true) {k : ByteClass} (hk : k = .noteOff ∨ k = .noteOn) {c : BitVec 4}
    {b : Byte} (hb : s.cfg.status.channelByte k c = b) {n v n' v' : BitVec 7} {rest : List Byte}
    (hrx : s.midiRx =
      b :: n.setWidth 8 :: v.setWidth 8 :: n'.setWidth 8 :: v'.setWidth 8 :: rest) :
    ∃ t, runSteps 5 s = .next t ∧ t.midiRx = rest ∧ t.pendingEvent = some b ∧
      t.bytesReceived = 0 ∧
      t.fired = s.fired ++
        if s.channelFilter.toNat = 0 ∨ s.channelFilter.toNat = c.toNat + 1 then
          [noteEvent k (BitVec.ofNat 8 (c.toNat + 1)) (n.setWidth 8) v,
           noteEvent k (BitVec.ofNat 8 (c.toNat + 1)) (n'.setWidth 8) v']
        else [] := by
  have hmem : k ∈ channelClasses := by rcases hk with rfl | rfl <;> decide
  have hkind : k.kind = .withArgs 2 := by rcases hk with rfl | rfl <;> rfl
  have hclass : classify s.cfg.status b = k := by rw [← hb, (classify_channelByte hwf hmem c).1]
  obtain ⟨hfield, hbelow⟩ := channelByte_toNat hwf hmem c
  rw [hb] at hfield hbelow
  have hnote : classify s.cfg.status b = .noteOff ∨ classify s.cfg.status b = .noteOn := by
    rwa [hclass]
  have haccept : accept s.channelFilter b (channelOf b) = true ↔
      s.channelFilter.toNat = 0 ∨ s.channelFilter.toNat = c.toNat + 1 := by
    rw [accept_iff_filterPasses, FilterPasses, hfield]
    omega
  let u : State := { s with
    midiRx := n.setWidth 8 :: v.setWidth 8 :: n'.setWidth 8 :: v'.setWidth 8 :: rest
    pendingEvent := some b, bytesNeeded := 2, bytesReceived := 0 }
  have hstatus : runSteps 1 s = .next u := by
    rw [runSteps, hdrain.step_byte hmode hwf hrx, hclass, classClause_withArgs hkind]
    rfl
  have hawaits : AwaitsPair b u :=
    ⟨⟨hdrain.sched, hdrain.awake, hdrain.pc⟩, hmode, rfl, rfl, rfl⟩
  obtain ⟨t, htwo, ht, hrest, hcfg, hfilter, hfirst⟩ := hawaits.runSteps_two hnote rfl
  obtain ⟨t', htwo', ht', hrest', _, _, hsecond⟩ := ht.runSteps_two (by rwa [hcfg]) hrest
  refine ⟨t', ?run, hrest', ht'.pending, ht'.received, ?fired⟩
  case run =>
    rw [show 5 = 1 + (2 + 2) from rfl, runSteps_add 1, hstatus, andThen_next, runSteps_add, htwo,
      andThen_next, htwo']
  case fired =>
    rw [hsecond, hfirst, hcfg, hfilter]
    show (s.fired ++ if accept s.channelFilter b (channelOf b) then
      [noteEvent (classify s.cfg.status b) (channelOf b) (n.setWidth 8) v] else []) ++
      (if accept s.channelFilter b (channelOf b) then
        [noteEvent (classify s.cfg.status b) (channelOf b) (n'.setWidth 8) v'] else []) = _
    simp only [haccept, hclass]
    rw [channelOf_eq, hfield]
    split <;> simp

/-- Settles O23: the note-on and the note-off row alike. -/
theorem runningStatusNotes : Obligations.RunningStatusNotes := by
  intro s c i b n v n' v' rest hwf hsched hawake hpc hmode hi hbytes hrx
  have hdrain : AtDrain s := ⟨hsched, hawake, hpc⟩
  rcases hi with rfl | rfl
  · have hrun := runSteps_runningStatus hdrain hmode hwf (.inr rfl) (List.singleton_inj.mp hbytes) hrx
    simpa [noteEvent] using hrun
  · have hrun := runSteps_runningStatus hdrain hmode hwf (.inl rfl) (List.singleton_inj.mp hbytes) hrx
    simpa [noteEvent] using hrun

/-! ### Start-up -/

theorem exec_mdInit (f : Byte) (s : State) :
    exec (.mdInit f) s = .next { s with
      channelFilter := f, mode := .normal, pendingEvent := none, bytesNeeded := 0
      bytesReceived := 0, lastDataByte := 0 } := rfl

theorem exec_schInit_ok (s : State) :
    exec (.schInit true) s = .next { s with
      tbArmed := true, channelFilter := s.cfg.channelFilterInit, mode := .normal
      pendingEvent := none, bytesNeeded := 0, bytesReceived := 0, lastDataByte := 0
      pc := .bootWait .framePoll } := rfl

theorem exec_schInit_failed (s : State) :
    exec (.schInit false) s = .next { s with pc := .halted, haltReason := .initFailure } := rfl

/-- Settles O42. -/
theorem startUp : Obligations.StartUp :=
  fun s => ⟨fun f => exec_mdInit f s, exec_schInit_ok s, exec_schInit_failed s⟩

end Sys2Proof.Machine
end

section
/-! PROOFS. The Live-State Blob (42_live_state_blob.md R191 to R198): each operation of U3, what it leaves
at every address, and what runs of note and sync operations add up to. -/

namespace Sys2Proof.Machine

/-! ### Writing one byte -/

/-- An operation that writes one byte leaves every other byte and every other field. -/
theorem exec_writesByte {i : Instr} {a : Nat} {v : Byte} {s : State}
    (h : exec i s = .next (blobWrite a v s)) :
    ∃ t, exec i s = .next t ∧ blobRead t a = v ∧ (∀ x, x ≠ a → blobRead t x = blobRead s x) ∧
      t = { s with blob := t.blob } := by
  refine ⟨blobWrite a v s, h, ?written, fun x hx => ?other, rfl⟩
  case written => rw [blobRead_blobWrite, if_pos rfl]
  case other => rw [blobRead_blobWrite, if_neg hx]

theorem exec_blResetSync (s : State) : exec .blResetSync s = .next (blobWrite 21 0#8 s) := rfl

theorem exec_blSetProgram (value : Byte) (s : State) :
    exec (.blSetProgram value) s = .next (blobWrite 22 value s) := rfl

/-- Settles O30: each operation writes its one byte. -/
theorem syncResetAndProgram : Obligations.SyncResetAndProgram :=
  fun s => ⟨exec_writesByte (exec_blResetSync s), fun value => exec_writesByte (exec_blSetProgram value s)⟩

/-! ### The snapshot (R197) -/

theorem exec_blSnapshot (s : State) :
    exec .blSnapshot s = .next (afterSnapshot { s with ret := .bytes (blobBytes s) }) := rfl

theorem afterSnapshot_frame (s : State) :
    afterSnapshot s = { s with blob := (afterSnapshot s).blob } := by
  unfold afterSnapshot
  split <;> rfl

theorem blobRead_afterSnapshot (s : State) (a : Nat) :
    blobRead (afterSnapshot s) a = if s.cfg.snapshotClears then 0#8 else blobRead s a := by
  unfold afterSnapshot
  split
  · exact Memory.read_nil a
  · rfl

theorem blobBytes_length (s : State) : (blobBytes s).length = s.cfg.blobSize := by
  rw [blobBytes, List.length_map, List.length_range]

theorem blobBytes_getElem? {s : State} {a : Nat} (ha : a < s.cfg.blobSize) :
    (blobBytes s)[a]? = some (blobRead s a) := by
  rw [blobBytes, List.getElem?_map, List.getElem?_range ha, Option.map_some]

/-- Settles O31: the bytes are read before a clearing build zeroes them. -/
theorem snapshotReturnsTheBlob : Obligations.SnapshotReturnsTheBlob := by
  intro s hwf
  have hsize : s.cfg.blobSize = 23 := Config.wf_blobSize hwf
  let u : State := { s with ret := .bytes (blobBytes s) }
  have hret : (afterSnapshot u).ret = .bytes (blobBytes s) := congrArg State.ret (afterSnapshot_frame u)
  refine ⟨afterSnapshot u, blobBytes s, exec_blSnapshot s, hret, (blobBytes_length s).trans hsize,
    fun a ha => blobBytes_getElem? (hsize ▸ ha), blobRead_afterSnapshot u, ?frame⟩
  case frame =>
    rw [hret]
    exact afterSnapshot_frame u

/-! ### Controllers (R193) -/

theorem exec_blSetController (cc value : Byte) (s : State) :
    exec (.blSetController cc value) s = .next (setController cc value s) := rfl

theorem blobRead_setController (cc value : Byte) (s : State) (a : Nat) :
    blobRead (setController cc value s) a =
      if 16 ≤ a ∧ s.cfg.ccSlot.toList[a - 16]? = some cc then value else blobRead s a :=
  read_writeSlots cc value s.cfg.ccSlot.toList 16 s.blob a

theorem blobRead_setController_slot (cc value : Byte) (s : State) (k : Fin 5) :
    blobRead (setController cc value s) (16 + k) =
      if s.cfg.ccSlot[k] = cc then value else blobRead s (16 + k) := by
  have hslot : s.cfg.ccSlot.toList[16 + k.val - 16]? = some s.cfg.ccSlot[k] := by
    rw [Nat.add_sub_cancel_left]
    simp
  rw [blobRead_setController, hslot]
  simp only [Nat.le_add_right, true_and, Option.some.injEq]

/-- Settles O28: the note bytes lie below the five slots, the sync position and the program above. -/
theorem setControllerWritesItsSlots : Obligations.SetControllerWritesItsSlots := by
  intro s cc value
  refine ⟨_, exec_blSetController cc value s, blobRead_setController_slot cc value s, fun a ha => ?other,
    rfl⟩
  case other =>
    rcases ha with hnote | habove
    · rw [blobRead_setController, if_neg fun hslot => Nat.not_le.mpr hnote hslot.1]
    · exact setController_read_above cc value s habove

/-! ### Runs of operations -/

/-- Operations that each have a next state, one after the other. -/
theorem execAll_map_next {α : Type} {op : α → Instr} {f : α → State → State}
    (h : ∀ x s, exec (op x) s = .next (f x s)) (xs : List α) (s : State) :
    execAll (xs.map op) s = .next (xs.foldl (fun u x => f x u) s) := by
  induction xs generalizing s with
  | nil => rfl
  | cons x rest ih =>
    rw [List.map_cons, execAll, h, andThen_next, ih, List.foldl_cons]

theorem execAll_replicate_next {i : Instr} {f : State → State} (h : ∀ s, exec i s = .next (f s))
    (k : Nat) (s : State) : execAll (List.replicate k i) s = .next (f^[k] s) := by
  induction k generalizing s with
  | zero => rfl
  | succ k ih =>
    rw [List.replicate_succ, execAll, h, andThen_next, ih, Function.iterate_succ_apply]

/-! ### The sync position (R194) -/

theorem exec_blAdvanceSync (s : State) : exec .blAdvanceSync s = .next (advanceSync s) := rfl

theorem advanceSync_eq_blobWrite {s : State} (hwf : s.cfg.wf = true) :
    advanceSync s = blobWrite 21 (BitVec.ofNat 8 (((blobRead s 21).toNat + 1) % 24)) s := by
  rw [advanceSync, Config.wf_syncModulus hwf]
  rfl

theorem advanceSync_sync {s : State} (hwf : s.cfg.wf = true) :
    (blobRead (advanceSync s) 21).toNat = ((blobRead s 21).toNat + 1) % 24 := by
  rw [advanceSync_eq_blobWrite hwf, blobRead_blobWrite, if_pos rfl, syncNext_toNat]

theorem iterate_advanceSync_cfg (k : Nat) (s : State) : (advanceSync^[k] s).cfg = s.cfg := by
  induction k with
  | zero => rfl
  | succ k ih =>
    rw [Function.iterate_succ_apply']
    exact ih

/-- From a sync position of 0. -/
theorem iterate_advanceSync_sync (k : Nat) {s : State} (hwf : s.cfg.wf = true)
    (hzero : (blobRead s 21).toNat = 0) : (blobRead (advanceSync^[k] s) 21).toNat = k % 24 := by
  induction k with
  | zero => exact hzero
  | succ k ih =>
    have hwf' : (advanceSync^[k] s).cfg.wf = true := by rw [iterate_advanceSync_cfg, hwf]
    rw [Function.iterate_succ_apply', advanceSync_sync hwf', ih, Nat.mod_add_mod]

/-- Settles O29: one advance, and a run of them. -/
theorem advanceSyncCountsModulo24 : Obligations.AdvanceSyncCountsModulo24 := by
  refine ⟨fun s hwf => ?one, fun s k hwf hzero => ?run⟩
  case one =>
    obtain ⟨t, hexec, hsync, hother, hframe⟩ :=
      exec_writesByte ((exec_blAdvanceSync s).trans (congrArg _ (advanceSync_eq_blobWrite hwf)))
    exact ⟨t, hexec, by rw [hsync, syncNext_toNat], hother, hframe⟩
  case run =>
    exact ⟨_, execAll_replicate_next exec_blAdvanceSync k s, iterate_advanceSync_sync k hwf hzero⟩

/-! ### Notes (R191, R192, R198) -/

/-- `BL.NOTE_ON` or `BL.NOTE_OFF`, by the value it gives the note's bit. -/
def writeNote (held : Bool) (note : Byte) (s : State) : State :=
  blobWrite (noteIndex note) (noteByte held note (blobRead s (noteIndex note))) s

theorem exec_blNoteOn (note : Byte) (s : State) :
    exec (.blNoteOn note) s = .next (writeNote true note s) := rfl

theorem exec_blNoteOff (note : Byte) (s : State) :
    exec (.blNoteOff note) s = .next (writeNote false note s) := rfl

/-- The bit of the note takes the value, every other bit of the blob stays. -/
theorem getLsbD_writeNote (held : Bool) (note : Byte) (s : State) (a : Nat) {k : Nat} (hk : k < 8) :
    (blobRead (writeNote held note s) a).getLsbD k =
      if a = note.toNat / 8 % 16 ∧ k = note.toNat % 8 then held else (blobRead s a).getLsbD k := by
  rw [writeNote, blobRead_blobWrite, ← noteIndex_eq]
  by_cases hbyte : a = noteIndex note
  · rw [if_pos hbyte, getLsbD_noteByte held note _ hk, hbyte]
    simp only [true_and]
  · rw [if_neg hbyte, if_neg fun hbit => hbyte hbit.1]

/-- Settles O26: both operations write the value of one bit. -/
theorem noteOperationsWriteTheirBit : Obligations.NoteOperationsWriteTheirBit :=
  fun s note =>
    ⟨⟨_, exec_blNoteOn note s, fun a _ hk => getLsbD_writeNote true note s a hk, rfl⟩,
      ⟨_, exec_blNoteOff note s, fun a _ hk => getLsbD_writeNote false note s a hk, rfl⟩⟩

/-- Notes 0 to 127 have a bit each. -/
theorem noteBit_eq_iff (n m : BitVec 7) :
    n.toNat / 8 = m.toNat / 8 % 16 ∧ n.toNat % 8 = m.toNat % 8 ↔ m = n := by
  rw [BitVec.toNat_eq]
  omega

theorem noteHeld_writeNote (held : Bool) (m n : BitVec 7) (s : State) :
    noteHeld (writeNote held (m.setWidth 8) s) n.toNat =
      if m = n then held else noteHeld s n.toNat := by
  rw [noteHeld, getLsbD_writeNote _ _ _ _ (Nat.mod_lt _ (by decide)),
    BitVec.toNat_setWidth_of_le (by decide)]
  simp only [noteBit_eq_iff]
  rfl

/-- The bit that the last operation on note `n` asks for, or `old` when there is none (R198). -/
def lastNoteBit (n : BitVec 7) (old : Bool) (ops : List (Bool × BitVec 7)) : Bool :=
  (ops.filter (fun o => o.2 = n)).getLast?.elim old Prod.fst

/-- The first operation counts only as the value that the later ones find. -/
theorem lastNoteBit_cons (n : BitVec 7) (old : Bool) (o : Bool × BitVec 7)
    (ops : List (Bool × BitVec 7)) :
    lastNoteBit n old (o :: ops) = lastNoteBit n (if o.2 = n then o.1 else old) ops := by
  unfold lastNoteBit
  by_cases hnote : o.2 = n
  · rw [List.filter_cons_of_pos (by simpa using hnote), List.getLast?_cons, if_pos hnote]
    cases (ops.filter (fun o => o.2 = n)).getLast? <;> rfl
  · rw [List.filter_cons_of_neg (by simpa using hnote), if_neg hnote]

theorem noteHeld_foldl_writeNote (ops : List (Bool × BitVec 7)) (s : State) (n : BitVec 7) :
    noteHeld (ops.foldl (fun u o => writeNote o.1 (o.2.setWidth 8) u) s) n.toNat =
      lastNoteBit n (noteHeld s n.toNat) ops := by
  induction ops generalizing s with
  | nil => rfl
  | cons o rest ih => rw [List.foldl_cons, ih, noteHeld_writeNote, lastNoteBit_cons]

theorem noteHeld_resetOf (c : Config) (n : Nat) : noteHeld (State.resetOf c) n = false := by
  rw [noteHeld, resetOf_blobRead, BitVec.getLsbD_zero]

/-- Settles O27: each operation sets the value that the next one on its note replaces. -/
theorem lastNoteOperationWins : Obligations.LastNoteOperationWins := by
  refine ⟨noteHeld_resetOf, fun ops s => ?_⟩
  have hop : ∀ (o : Bool × BitVec 7) (u : State),
      exec (if o.1 then .blNoteOn (o.2.setWidth 8) else .blNoteOff (o.2.setWidth 8)) u =
        .next (writeNote o.1 (o.2.setWidth 8) u) := by
    rintro ⟨held, note⟩ u
    cases held with
    | true => exact exec_blNoteOn (note.setWidth 8) u
    | false => exact exec_blNoteOff (note.setWidth 8) u
  refine ⟨_, execAll_map_next hop ops s, fun n => ?_⟩
  rw [noteHeld_foldl_writeNote, lastNoteBit]
  cases (ops.filter (fun o => o.2 = n)).getLast? <;> rfl

end Sys2Proof.Machine
end

section
/-! PROOFS. The foot switch (43_input_scanner.md R221 to R223): one poll by its effect on the candidate,
the slot of the poll before and the reported state, then what runs of polls report. -/

namespace Sys2Proof.Machine

/-! ### One poll -/

theorem exec_scFsPoll (v : Sample) (s : State) : exec (.scFsPoll v) s = .next (fsPoll v s) := rfl

theorem fsPoll_cfg (v : Sample) (s : State) : (fsPoll v s).cfg = s.cfg := by
  rw [fsPoll_eq]

theorem fsPoll_fsCandidate (v : Sample) (s : State) :
    (fsPoll v s).fsCandidate = fsCandidateOf s.cfg v s.fsCandidate := by
  rw [fsPoll_eq]

theorem fsPoll_fsBuf (v : Sample) (s : State) :
    (fsPoll v s).fsBuf = s.fsBuf.set s.fsSlot (fsPoll v s).fsCandidate := by
  rw [fsPoll_eq]
  rfl

theorem fsPoll_fsSlot (v : Sample) (s : State) :
    (fsPoll v s).fsSlot = (s.fsSlot + 1) % s.cfg.fsSlots := by
  rw [fsPoll_eq]

theorem fsPoll_fsLast (v : Sample) (s : State) :
    (fsPoll v s).fsLast = fsNew (fsPoll v s).fsBuf s.fsLast := by
  rw [fsPoll_eq]

/-- A poll sends one frame where the reported state changes, and none otherwise. -/
theorem fsPoll_out_eq (v : Sample) (s : State) :
    (fsPoll v s).out =
      s.out ++ if (fsPoll v s).fsLast = s.fsLast then [] else [fsFrame (fsPoll v s).fsLast] := by
  rw [fsPoll_eq]
  rfl

theorem fsFrame_eq (c : Contact) :
    fsFrame c = ⟨"/fs", [.int (if c = .pressed then 1#32 else 0#32)]⟩ := by
  cases c <;> rfl

/-- Two slots agree, after a write to one of them, when the other holds what was written. -/
theorem slots_agree_set {buf : List Contact} {k : Nat} (hbuf : buf.length = 2) (hk : k < 2)
    (c : Contact) : (buf.set k c)[0]? = (buf.set k c)[1]? ↔ buf[1 - k]? = some c := by
  obtain ⟨a, b, rfl⟩ := List.length_eq_two.mp hbuf
  match k, hk with
  | 0, _ => simp [eq_comm]
  | 1, _ => simp

/-- The edge rule on two slots, after a write to one of them. -/
theorem fsNew_set {buf : List Contact} {k : Nat} (hbuf : buf.length = 2) (hk : k < 2)
    (c last : Contact) :
    fsNew (buf.set k c) last = if buf[1 - k]? = some c then c else last := by
  obtain ⟨a, b, rfl⟩ := List.length_eq_two.mp hbuf
  match k, hk with
  | 0, _ => by_cases hb : b = c <;> simp [fsNew, fsAgreed, hb]
  | 1, _ =>
    by_cases ha : a = c
    · simp [fsNew, fsAgreed, ha]
    · simp [fsNew, fsAgreed, ha, Ne.symm ha]

/-- The foot switch has its two slots, and the next write goes to one of them (10_state.md R39). -/
structure FootReady (s : State) : Prop where
  config : s.cfg.wf = true
  slots : s.fsBuf.length = 2
  slot : s.fsSlot < 2

/-- What the slot of the poll before holds: the one that the next poll leaves (D22). -/
def fsPrevious (s : State) : Option Contact := s.fsBuf[1 - s.fsSlot]?

theorem FootReady.fsSlot_fsPoll {s : State} (h : FootReady s) (v : Sample) :
    (fsPoll v s).fsSlot = 1 - s.fsSlot := by
  have hslot := h.slot
  rw [fsPoll_fsSlot, Config.wf_fsSlots h.config]
  omega

theorem FootReady.poll {s : State} (h : FootReady s) (v : Sample) : FootReady (fsPoll v s) where
  config := by
    rw [fsPoll_cfg]
    exact h.config
  slots := by
    rw [fsPoll_fsBuf, List.length_set]
    exact h.slots
  slot := by
    rw [h.fsSlot_fsPoll]
    omega

/-- The slots alternate, so the slot that a poll wrote is the next poll's other slot. -/
theorem FootReady.fsPrevious_fsPoll {s : State} (h : FootReady s) (v : Sample) :
    fsPrevious (fsPoll v s) = some (fsPoll v s).fsCandidate := by
  have hslot := h.slot
  have hother : 1 - (1 - s.fsSlot) = s.fsSlot := by omega
  rw [fsPrevious, h.fsSlot_fsPoll, hother, fsPoll_fsBuf, List.getElem?_set_self]
  rw [h.slots]
  exact hslot

/-- A poll reports its candidate when the poll before had the same (R222). -/
theorem FootReady.fsLast_fsPoll {s : State} (h : FootReady s) (v : Sample) :
    (fsPoll v s).fsLast =
      if fsPrevious s = some (fsPoll v s).fsCandidate then (fsPoll v s).fsCandidate
      else s.fsLast := by
  rw [fsPoll_fsLast, fsPoll_fsBuf, fsNew_set h.slots h.slot]
  rfl

/-- Settles O36: each clause is a field of the state after the poll. -/
theorem footSwitchPoll : Obligations.FootSwitchPoll := by
  intro s v hwf hbuf hslot
  have h : FootReady s := ⟨hwf, hbuf, hslot⟩
  refine ⟨fsPoll v s, exec_scFsPoll v s, fsPoll_fsCandidate v s, (h.poll v).slots, ?written,
    h.fsSlot_fsPoll v, ?last, ?frames, fsPoll_frame v s⟩
  case written =>
    intro k hk
    rw [fsPoll_fsBuf, List.getElem?_set]
    simp only [hbuf, hslot, if_true, eq_comm (a := s.fsSlot)]
  case last =>
    rw [h.fsLast_fsPoll]
    refine if_congr ?_ rfl rfl
    rw [fsPoll_fsBuf, slots_agree_set hbuf hslot, fsPrevious]
  case frames => rw [fsPoll_out_eq, fsFrame_eq]

/-! ### Runs of polls -/

/-- The samples of `l`, polled one after the other. -/
def fsPolls (l : List Sample) (s : State) : State := l.foldl (fun u v => fsPoll v u) s

theorem fsPolls_cons (v : Sample) (l : List Sample) (s : State) :
    fsPolls (v :: l) s = fsPolls l (fsPoll v s) := rfl

theorem execAll_scFsPoll (l : List Sample) (s : State) :
    execAll (l.map .scFsPoll) s = .next (fsPolls l s) :=
  execAll_map_next exec_scFsPoll l s

/-- A sample beyond a threshold: its candidate is `x`, whatever the candidate before (R221). -/
def Reads (c : Config) (v : Sample) (x : Contact) : Prop := ∀ prior, fsCandidateOf c v prior = x

theorem reads_pressed {c : Config} {v : Sample} (h : v.toNat < c.fsLow) : Reads c v .pressed :=
  fun _ => if_pos h

theorem reads_released {c : Config} (hwf : c.wf = true) {v : Sample} (h : c.fsHigh < v.toNat) :
    Reads c v .released := by
  obtain ⟨_, _, _, _, _, _, _, _, horder⟩ := Config.wf_analog hwf
  have hlow : ¬ v.toNat < c.fsLow := by omega
  exact fun _ => (if_neg hlow).trans (if_pos h)

/-- The run appended the frames of `fs` and left `last` reported. -/
structure Reported (fs : List Frame) (last : Contact) (s t : State) : Prop where
  out : t.out = s.out ++ fs
  fsLast : t.fsLast = last

theorem Reported.refl (s : State) : Reported [] s.fsLast s s :=
  ⟨(List.append_nil _).symm, rfl⟩

theorem Reported.trans {fs gs : List Frame} {a b : Contact} {s u t : State}
    (hfirst : Reported fs a s u) (hrest : Reported gs b u t) : Reported (fs ++ gs) b s t where
  out := by rw [hrest.out, hfirst.out, List.append_assoc]
  fsLast := hrest.fsLast

theorem fsPoll_fsCandidate_of_reads {s : State} {v : Sample} {x : Contact}
    (hread : Reads s.cfg v x) : (fsPoll v s).fsCandidate = x :=
  (fsPoll_fsCandidate v s).trans (hread _)

theorem FootReady.fsPrevious_of_reads {s : State} (h : FootReady s) {v : Sample} {x : Contact}
    (hread : Reads s.cfg v x) : fsPrevious (fsPoll v s) = some x := by
  rw [h.fsPrevious_fsPoll, fsPoll_fsCandidate_of_reads hread]

theorem FootReady.fsPrevious_ne_of_reads {s : State} (h : FootReady s) {v : Sample}
    {x y : Contact} (hread : Reads s.cfg v x) (hne : x ≠ y) : fsPrevious (fsPoll v s) ≠ some y := by
  rw [h.fsPrevious_of_reads hread]
  exact fun heq => hne (Option.some.inj heq)

/-- A contact that the poll before did not have, or that is reported already, reports nothing. -/
theorem FootReady.poll_silent {s : State} (h : FootReady s) {v : Sample} {x : Contact}
    (hread : Reads s.cfg v x) (hold : fsPrevious s ≠ some x ∨ s.fsLast = x) :
    Reported [] s.fsLast s (fsPoll v s) := by
  have hlast : (fsPoll v s).fsLast = s.fsLast := by
    rw [h.fsLast_fsPoll, fsPoll_fsCandidate_of_reads hread]
    rcases hold with hnew | hsame
    · exact if_neg hnew
    · rw [hsame, ite_self]
  exact ⟨by rw [fsPoll_out_eq, if_pos hlast], hlast⟩

/-- A contact that the poll before had, and that is not reported yet, is reported at once. -/
theorem FootReady.poll_reports {s : State} (h : FootReady s) {v : Sample} {x : Contact}
    (hread : Reads s.cfg v x) (hprev : fsPrevious s = some x) (hnew : s.fsLast ≠ x) :
    Reported [fsFrame x] x s (fsPoll v s) := by
  have hlast : (fsPoll v s).fsLast = x := by
    rw [h.fsLast_fsPoll, fsPoll_fsCandidate_of_reads hread, if_pos hprev]
  exact ⟨by rw [fsPoll_out_eq, hlast, if_neg (Ne.symm hnew)], hlast⟩

/-- The samples read `first` and `second` in turn. -/
def Alternates (c : Config) : Contact → Contact → List Sample → Prop
  | _, _, [] => True
  | first, second, v :: rest => Reads c v first ∧ Alternates c second first rest

/-- The alternation as R223 has it, by the parity of a poll's index. -/
theorem alternates_of_parity {c : Config} (hwf : c.wf = true) {first second : Contact}
    (hne : first ≠ second) {l : List Sample}
    (h : ∀ (i : Nat) (v : Sample), l[i]? = some v →
      if (if i % 2 = 0 then first else second) = .pressed then v.toNat < c.fsLow
      else c.fsHigh < v.toNat) : Alternates c first second l := by
  induction l generalizing first second with
  | nil => trivial
  | cons v rest ih =>
    refine ⟨?first, ih hne.symm fun i w hw => ?rest⟩
    case first =>
      have hv := h 0 v rfl
      cases first with
      | pressed => exact reads_pressed hv
      | released => exact reads_released hwf hv
    case rest =>
      have hturn : (if (i + 1) % 2 = 0 then first else second) =
          if i % 2 = 0 then second else first := by
        rcases Nat.mod_two_eq_zero_or_one i with hi | hi
        · rw [if_neg (by omega), if_pos hi]
        · rw [if_pos (by omega), if_neg (by omega)]
      have hw' := h (i + 1) w hw
      rwa [hturn] at hw'

/-- The first poll of an alternation reports nothing, so none does: a later poll never agrees with the
one before it. -/
theorem FootReady.alternation_silent {l : List Sample} {first second : Contact}
    (hne : first ≠ second) {s : State} (h : FootReady s) (halt : Alternates s.cfg first second l)
    (hold : fsPrevious s ≠ some first ∨ s.fsLast = first) :
    Reported [] s.fsLast s (fsPolls l s) := by
  induction l generalizing first second s with
  | nil => exact .refl s
  | cons v rest ih =>
    obtain ⟨hread, hrest⟩ := halt
    have hsilent : Reported [] s.fsLast s (fsPoll v s) := h.poll_silent hread hold
    rw [← fsPoll_cfg v s] at hrest
    have htail := ih hne.symm (h.poll v) hrest (.inl (h.fsPrevious_ne_of_reads hread hne))
    rw [hsilent.fsLast] at htail
    exact hsilent.trans htail

/-- An alternation whose first poll agrees with the poll before it on a new state reports that, and
then nothing. -/
theorem FootReady.alternation_reports_first {l : List Sample} {first second : Contact}
    (hne : first ≠ second) {s : State} (h : FootReady s) (halt : Alternates s.cfg first second l)
    (hprev : fsPrevious s = some first) (hnew : s.fsLast ≠ first) (hl : l ≠ []) :
    Reported [fsFrame first] first s (fsPolls l s) := by
  match l, hl with
  | v :: rest, _ =>
    obtain ⟨hread, hrest⟩ := halt
    have hfirst := h.poll_reports hread hprev hnew
    rw [← fsPoll_cfg v s] at hrest
    have htail := (h.poll v).alternation_silent hne.symm hrest
      (.inl (h.fsPrevious_ne_of_reads hread hne))
    rw [hfirst.fsLast] at htail
    exact hfirst.trans htail

/-- A sustained contact that is reported already reports nothing more. -/
theorem FootReady.sustained_silent {l : List Sample} {x : Contact} {s : State} (h : FootReady s)
    (hread : ∀ v ∈ l, Reads s.cfg v x) (hlast : s.fsLast = x) : Reported [] x s (fsPolls l s) := by
  induction l generalizing s with
  | nil => exact hlast ▸ .refl s
  | cons v rest ih =>
    obtain ⟨hv, hrest⟩ := List.forall_mem_cons.mp hread
    have hsilent := h.poll_silent hv (.inr hlast)
    rw [← fsPoll_cfg v s] at hrest
    exact hsilent.trans (ih (h.poll v) hrest (hsilent.fsLast.trans hlast))

/-- A sustained new contact is reported once, at its first poll when the poll before had it too. -/
theorem FootReady.sustained_reports_first {v : Sample} {l : List Sample} {x : Contact} {s : State}
    (h : FootReady s) (hread : ∀ w ∈ v :: l, Reads s.cfg w x) (hprev : fsPrevious s = some x)
    (hnew : s.fsLast ≠ x) : Reported [fsFrame x] x s (fsPolls (v :: l) s) := by
  obtain ⟨hv, hrest⟩ := List.forall_mem_cons.mp hread
  have hfirst := h.poll_reports hv hprev hnew
  rw [← fsPoll_cfg v s] at hrest
  exact hfirst.trans ((h.poll v).sustained_silent hrest hfirst.fsLast)

/-- A sustained new contact of two polls or more is reported once, whatever the slots hold. -/
theorem FootReady.sustained_reports_once {v w : Sample} {l : List Sample} {x : Contact} {s : State}
    (h : FootReady s) (hread : ∀ u ∈ v :: w :: l, Reads s.cfg u x) (hnew : s.fsLast ≠ x) :
    Reported [fsFrame x] x s (fsPolls (v :: w :: l) s) := by
  by_cases hprev : fsPrevious s = some x
  · exact h.sustained_reports_first hread hprev hnew
  · obtain ⟨hv, hrest⟩ := List.forall_mem_cons.mp hread
    have hsilent := h.poll_silent hv (.inl hprev)
    have hprev' : fsPrevious (fsPoll v s) = some x := h.fsPrevious_of_reads hv
    have hnew' : (fsPoll v s).fsLast ≠ x := hsilent.fsLast ▸ hnew
    rw [← fsPoll_cfg v s] at hrest
    exact hsilent.trans ((h.poll v).sustained_reports_first hrest hprev' hnew')

/-- Settles O37: an alternation by whether its first poll reports, a sustained low by whether its first
or its second does. -/
theorem footSwitchDebounces : Obligations.FootSwitchDebounces := by
  intro s l hwf hbuf hslot
  have h : FootReady s := ⟨hwf, hbuf, hslot⟩
  refine ⟨fun first second hne hparity => ?alternating, fun hlow hlength hreleased => ?sustained⟩
  case alternating =>
    have halt : Alternates s.cfg first second l := alternates_of_parity hwf hne hparity
    refine ⟨fsPolls l s, execAll_scFsPoll l s, fun hold => ?silent, fun hprev hnew hl => ?reports⟩
    case silent =>
      have hsilent := h.alternation_silent hne halt hold
      exact ⟨hsilent.out.trans (List.append_nil _), hsilent.fsLast⟩
    case reports =>
      have hone := h.alternation_reports_first hne halt hprev hnew hl
      rw [fsFrame_eq] at hone
      exact ⟨hone.out, hone.fsLast⟩
  case sustained =>
    match l, hlength with
    | v :: w :: rest, _ =>
      have hread : ∀ u ∈ v :: w :: rest, Reads s.cfg u .pressed :=
        fun u hu => reads_pressed (hlow u hu)
      have hnew : s.fsLast ≠ .pressed := by simp [hreleased]
      have honce := h.sustained_reports_once hread hnew
      exact ⟨_, execAll_scFsPoll _ s, honce.out, honce.fsLast⟩

end Sys2Proof.Machine
end

section
/-! PROOFS. The keys (43_input_scanner.md R211 to R213): a scan's ring, reported states and frames, and
what four scans leave in the ring. -/

namespace Sys2Proof.Machine

/-! ### One scan -/

theorem exec_scKeyscan (s : State) : exec .scKeyscan s = .next (keyScan s) := rfl

theorem keyScan_keyGeneration {s : State} (hwf : s.cfg.wf = true) :
    (keyScan s).keyGeneration = (s.keyGeneration + 1) % 4 := by
  rw [keyScan_eq, nextGeneration, Config.wf_keyGenerations hwf]

theorem keyScan_keyGen (s : State) :
    (keyScan s).keyGen =
      s.keyGen.set (keyScan s).keyGeneration (s.pins.map (rawKey s.cfg.keyPressedLevel)) := rfl

theorem keyScan_keyGen_length (s : State) : (keyScan s).keyGen.length = s.keyGen.length :=
  List.length_set

/-- The generation that the scan advances to holds the raw vector, every other what it held (R211). -/
theorem keyScan_keyGen_getElem? {s : State} (hwf : s.cfg.wf = true) (hring : s.keyGen.length = 4)
    (g : Nat) : (keyScan s).keyGen[g]? =
      if g = (keyScan s).keyGeneration then some (s.pins.map (rawKey s.cfg.keyPressedLevel))
      else s.keyGen[g]? := by
  have hlt : (keyScan s).keyGeneration < s.keyGen.length := by
    rw [keyScan_keyGeneration hwf, hring]
    exact Nat.mod_lt _ (by decide)
  rw [keyScan_keyGen, List.getElem?_set, if_pos hlt]
  simp only [eq_comm]

/-! ### The decision (R212) -/

theorem allRead_iff (ring : List (List Contact)) (i : Nat) (v : Contact) :
    allRead ring i v = true ↔ ∀ g ∈ ring, g[i]? = some v := by
  simp [allRead]

theorem decideKey_eq (ring : List (List Contact)) (i : Nat) (last : Contact) :
    decideKey ring i last =
      if ∀ g ∈ ring, g[i]? = some Contact.pressed then .pressed
      else if ∀ g ∈ ring, g[i]? = some Contact.released then .released
      else last :=
  if_congr (allRead_iff ring i .pressed) rfl (if_congr (allRead_iff ring i .released) rfl rfl)

theorem decideKeys_getElem? (ring : List (List Contact)) (i : Nat) (l : List Contact) (j : Nat) :
    (decideKeys ring i l)[j]? = l[j]?.map (decideKey ring (i + j)) := by
  induction l generalizing i j with
  | nil => rfl
  | cons last rest ih =>
    cases j with
    | zero => rfl
    | succ j =>
      rw [decideKeys, List.getElem?_cons_succ, ih, List.getElem?_cons_succ, Nat.add_right_comm,
        Nat.add_assoc]

/-- The frames of the decision part, where `changed` tells the keys that changed and `frame` what a
changed key sends. -/
theorem keyReports_eq {c : Config} {ring : List (List Contact)} {changed : Nat → Bool}
    {frame : Nat → Frame} {i : Nat} {l : List Contact}
    (h : ∀ (j : Nat) (last : Contact), l[j]? = some last →
      keyReport c ring (i + j) last = if changed (i + j) then [frame (i + j)] else []) :
    keyReports c ring i l = ((List.range' i l.length).filter changed).map frame := by
  induction l generalizing i with
  | nil => rfl
  | cons last rest ih =>
    have hhead : keyReport c ring i last = if changed i then [frame i] else [] := h 0 last rfl
    have htail := ih (i := i + 1) fun j v hj => by
      rw [Nat.add_assoc, Nat.add_comm 1 j]
      exact h (j + 1) v hj
    rw [keyReports, hhead, htail, List.length_cons, List.range'_succ, List.filter_cons]
    cases changed i <;> rfl

theorem keyScan_keyLast (s : State) (i : Nat) :
    (keyScan s).keyLast[i]? = s.keyLast[i]?.map (decideKey (keyScan s).keyGen i) := by
  have hkey := decideKeys_getElem? (keyScan s).keyGen 0 s.keyLast i
  rwa [Nat.zero_add] at hkey

theorem keyScan_keyLast_length (s : State) : (keyScan s).keyLast.length = s.keyLast.length :=
  decideKeys_length _ 0 s.keyLast

theorem keyArg_eq {c : Config} (hwf : c.wf = true) (v : Contact) :
    keyArg c v = .int (if v = .pressed then 100#32 else 0#32) := by
  cases v with
  | pressed => exact congrArg Arg.int (Config.wf_keyPressedValue hwf)
  | released => exact congrArg Arg.int (Config.wf_keyReleasedValue hwf)

/-- The frame that a scan which leaves `t` sends for key `i`, when that changed. -/
def changedKeyFrame (t : State) (i : Nat) : Frame :=
  ⟨"/key", [.int (BitVec.ofNat 32 i), .int (if t.keyLast[i]? = some .pressed then 100#32 else 0#32)]⟩

theorem keyScan_keyReport {s : State} (hwf : s.cfg.wf = true) {i : Nat} {last : Contact}
    (hlast : s.keyLast[i]? = some last) :
    keyReport s.cfg (keyScan s).keyGen i last =
      if decide ((keyScan s).keyLast[i]? ≠ s.keyLast[i]?) then [changedKeyFrame (keyScan s) i]
      else [] := by
  have hnew : (keyScan s).keyLast[i]? = some (decideKey (keyScan s).keyGen i last) := by
    rw [keyScan_keyLast, hlast, Option.map_some]
  simp only [keyReport, changedKeyFrame, keyFrame, keyArg_eq hwf, hnew, hlast, Option.some.injEq,
    decide_eq_true_eq, ne_eq, ite_not]

theorem keyScan_out_eq {s : State} (hwf : s.cfg.wf = true) :
    (keyScan s).out = s.out ++
      ((List.range s.keyLast.length).filter
        (fun i => (keyScan s).keyLast[i]? ≠ s.keyLast[i]?)).map (changedKeyFrame (keyScan s)) := by
  rw [List.range_eq_range']
  refine congrArg (s.out ++ ·) (keyReports_eq fun i last hlast => ?_)
  rw [Nat.zero_add]
  exact keyScan_keyReport hwf hlast

/-- Settles O33: the ring, the decision and the frames, each by its lemma above. -/
theorem keyScanDebounces : Obligations.KeyScanDebounces := by
  intro s hwf hring
  refine ⟨keyScan s, exec_scKeyscan s, keyScan_keyGeneration hwf,
    (keyScan_keyGen_length s).trans hring, fun g _ => keyScan_keyGen_getElem? hwf hring g,
    keyScan_keyLast_length s, fun i last hlast => ?decision, keyScan_out_eq hwf, keyScan_eq s⟩
  case decision => rw [keyScan_keyLast, hlast, Option.map_some, decideKey_eq]

/-! ### Four scans (R213) -/

/-- The scan of a cycle that finds the pins at `p`. -/
def keyCycle (p : List Bool) (s : State) : State := keyScan { s with pins := p }

theorem keyCycle_keyLast_length (p : List Bool) (s : State) :
    (keyCycle p s).keyLast.length = s.keyLast.length :=
  keyScan_keyLast_length { s with pins := p }

theorem keyCycle_keyLast (p : List Bool) (s : State) (i : Nat) :
    (keyCycle p s).keyLast[i]? = s.keyLast[i]?.map (decideKey (keyCycle p s).keyGen i) :=
  keyScan_keyLast { s with pins := p } i

/-- The ring of a legal device `c` holds the vectors `recent` of the last scans, the latest first, up to
its four generations. -/
structure RingHolds (c : Config) (recent : List (List Contact)) (s : State) : Prop where
  cfg : s.cfg = c
  config : c.wf = true
  ring : s.keyGen.length = 4
  holds : ∀ (age : Nat) (v : List Contact), age < 4 → recent[age]? = some v →
    s.keyGen[(s.keyGeneration + 4 - age) % 4]? = some v

/-- A scan's vector is the latest, and replaces the one that was four scans old. -/
theorem RingHolds.cycle {c : Config} {recent : List (List Contact)} {s : State}
    (h : RingHolds c recent s) (p : List Bool) :
    RingHolds c (p.map (rawKey c.keyPressedLevel) :: recent) (keyCycle p s) := by
  obtain ⟨rfl, hwf, hring, hholds⟩ := h
  let u : State := { s with pins := p }
  have hgeneration : (keyScan u).keyGeneration = (s.keyGeneration + 1) % 4 :=
    keyScan_keyGeneration (s := u) hwf
  refine ⟨rfl, hwf, (keyScan_keyGen_length u).trans hring, fun age v hage hv => ?_⟩
  rw [keyCycle, keyScan_keyGen_getElem? (s := u) hwf hring, hgeneration]
  cases age with
  | zero =>
    rw [if_pos (by omega)]
    exact hv
  | succ age =>
    have hslot : ((s.keyGeneration + 1) % 4 + 4 - (age + 1)) % 4 = (s.keyGeneration + 4 - age) % 4 := by
      omega
    rw [if_neg (by omega), hslot]
    exact hholds age v (by omega) hv

/-- After four scans the ring holds their vectors and nothing else. -/
theorem RingHolds.mem_iff {c : Config} {recent : List (List Contact)} {s : State}
    (h : RingHolds c recent s) (hfour : recent.length = 4) (v : List Contact) :
    v ∈ s.keyGen ↔ v ∈ recent := by
  constructor
  · intro hv
    obtain ⟨slot, hslot, rfl⟩ := List.mem_iff_getElem.mp hv
    rw [h.ring] at hslot
    let age := (s.keyGeneration + 4 - slot) % 4
    have hage : age < recent.length := by omega
    have hback : (s.keyGeneration + 4 - age) % 4 = slot := by omega
    have hheld := h.holds age _ (hfour ▸ hage) (List.getElem?_eq_getElem hage)
    rw [hback] at hheld
    obtain ⟨_, heq⟩ := List.getElem_of_getElem? hheld
    rw [heq]
    exact List.getElem_mem hage
  · intro hv
    obtain ⟨age, hage, rfl⟩ := List.mem_iff_getElem.mp hv
    exact List.mem_of_getElem? (h.holds age _ (hfour ▸ hage) (List.getElem?_eq_getElem hage))

theorem rawKeys_pressed {level : Bool} {p : List Bool} {i : Nat} (h : p[i]? = some level) :
    (p.map (rawKey level))[i]? = some .pressed := by
  simp [h, rawKey]

theorem rawKeys_released {level : Bool} {p : List Bool} {i : Nat} (h : p[i]? = some !level) :
    (p.map (rawKey level))[i]? = some .released := by
  simp [h, rawKey]

theorem decideKey_of_all_pressed {ring : List (List Contact)} {i : Nat}
    (h : ∀ g ∈ ring, g[i]? = some .pressed) (last : Contact) : decideKey ring i last = .pressed := by
  rw [decideKey_eq, if_pos h]

/-- A generation that reads released keeps a released key released, whatever the others read. -/
theorem decideKey_released_of_mem {ring : List (List Contact)} {i : Nat} {g : List Contact}
    (hg : g ∈ ring) (hreads : g[i]? = some .released) : decideKey ring i .released = .released := by
  have hnotAll : ¬ ∀ g ∈ ring, g[i]? = some .pressed := by
    intro hall
    simp [hall g hg] at hreads
  rw [decideKey_eq, if_neg hnotAll, ite_self]

/-- Settles O34: after the fourth cycle the ring holds the vectors of the four, and nothing older. -/
theorem keyPressNeedsFourCycles : Obligations.KeyPressNeedsFourCycles := by
  intro s i p₁ p₂ p₃ p₄ hwf hring hi
  let u : State := keyCycle p₃ (keyCycle p₂ (keyCycle p₁ s))
  have hstart : RingHolds s.cfg [] s := ⟨rfl, hwf, hring, by simp⟩
  have hholds : RingHolds s.cfg
      ([p₁, p₂, p₃, p₄].reverse.map (List.map (rawKey s.cfg.keyPressedLevel))) (keyCycle p₄ u) :=
    (((hstart.cycle p₁).cycle p₂).cycle p₃).cycle p₄
  have hmem : ∀ g, g ∈ (keyCycle p₄ u).keyGen ↔
      ∃ p ∈ [p₁, p₂, p₃, p₄], p.map (rawKey s.cfg.keyPressedLevel) = g := by
    intro g
    rw [hholds.mem_iff rfl, List.mem_map]
    simp only [List.mem_reverse]
  have hthree : keyCycles [p₁, p₂, p₃] s = .next u := rfl
  have hfour : keyCycles [p₁, p₂, p₃, p₄] s = .next (keyCycle p₄ u) := rfl
  refine ⟨fun hpressed => ⟨_, hfour, ?reported⟩,
    fun ⟨p, hp, hreleased⟩ => ⟨u, _, hthree, hfour, ?kept⟩⟩
  case reported =>
    have hlt : i < u.keyLast.length := by
      simpa only [u, keyCycle_keyLast_length] using hi
    have hall : ∀ g ∈ (keyCycle p₄ u).keyGen, g[i]? = some .pressed := by
      intro g hg
      obtain ⟨p, hp, rfl⟩ := (hmem g).mp hg
      exact rawKeys_pressed (hpressed p hp)
    refine (keyCycle_keyLast p₄ u i).trans ?_
    rw [List.getElem?_eq_getElem hlt, Option.map_some, decideKey_of_all_pressed hall]
  case kept =>
    intro hlast
    refine (keyCycle_keyLast p₄ u i).trans ?_
    rw [hlast, Option.map_some,
      decideKey_released_of_mem ((hmem _).mpr ⟨p, hp, rfl⟩) (rawKeys_released hreleased)]

end Sys2Proof.Machine
end

section
/-! PROOFS. The knob latch and the scan cycle (43_input_scanner.md R210, R215; 45_scheduler.md R267). -/

namespace Sys2Proof.Machine

/-! ### The knob latch (R215) -/

theorem exec_scKnobLatch (s : State) : exec .scKnobLatch s = knobLatch s := rfl

theorem knobLatch_noBatch {s : State} (h : s.adcBatchComplete = false) : knobLatch s = .next s := by
  simp [knobLatch, h]

theorem knobLatch_batch {s : State} (hbatch : s.adcBatchComplete = true)
    (hchannels : channelsPresent s = true) :
    knobLatch s = .next (fsPoll (sampleAt s s.cfg.fsChannel) (latchKnobs s)) := by
  simp [knobLatch, hbatch, hchannels]

theorem knobLatch_absent {s : State} (hbatch : s.adcBatchComplete = true)
    (hchannels : channelsPresent s = false) : knobLatch s = .fault .absentChannel := by
  simp [knobLatch, hbatch, hchannels]

theorem channelsPresent_iff (s : State) :
    channelsPresent s = true ↔
      (∀ c ∈ s.cfg.knobMap, c < s.adcSample.length) ∧ s.cfg.fsChannel < s.adcSample.length := by
  simp [channelsPresent]

theorem adcSample_getElem? {s : State} {c : Nat} (h : c < s.adcSample.length) :
    s.adcSample[c]? = some (sampleAt s c) := by
  rw [sampleAt, List.getD_eq_getElem _ _ h, List.getElem?_eq_getElem h]

theorem latchKnobs_knob_getElem? {s : State} {k c : Nat} (hmap : s.cfg.knobMap[k]? = some c)
    (hc : c < s.adcSample.length) : (latchKnobs s).knob[k]? = s.adcSample[c]? := by
  rw [adcSample_getElem? hc]
  show (s.cfg.knobMap.map (sampleAt s))[k]? = _
  rw [List.getElem?_map, hmap, Option.map_some]

/-- Settles O35: one latch equation for each of no batch, all channels present, one absent. -/
theorem knobLatchCopiesTheBatch : Obligations.KnobLatchCopiesTheBatch := by
  intro s
  simp only [exec_scKnobLatch]
  refine ⟨knobLatch_noBatch, fun hbatch hfs hmap => ?copied, fun hbatch habsent => ?stopped⟩
  case copied =>
    have hchannels : channelsPresent s = true := (channelsPresent_iff s).mpr ⟨hmap, hfs⟩
    exact ⟨sampleAt s s.cfg.fsChannel, latchKnobs s, _, adcSample_getElem? hfs, List.length_map _,
      fun k c hk => latchKnobs_knob_getElem? hk (hmap c (List.mem_of_getElem? hk)), rfl,
      exec_scFsPoll _ _, knobLatch_batch hbatch hchannels⟩
  case stopped =>
    refine knobLatch_absent hbatch (Bool.eq_false_iff.mpr fun hpresent => ?_)
    obtain ⟨hmap, hfs⟩ := (channelsPresent_iff s).mp hpresent
    rcases habsent with hfsAbsent | ⟨c, hc, hcAbsent⟩
    · exact Nat.not_le.mpr hfs hfsAbsent
    · exact Nat.not_le.mpr (hmap c hc) hcAbsent

/-! ### The scan cycle (R210, R267) -/

theorem exec_scCycle (s : State) : exec .scCycle s = knobLatch (keyScan s) := rfl

theorem exec_schScan (s : State) :
    exec .schScan s = andThen (exec .scCycle s) (fun t => .next { t with pc := .run .gate }) := rfl

/-- A legal configuration names only channels below `N_ADC_CHANNELS` (D24). -/
theorem channelsPresent_of_sizes {s : State} (hwf : s.cfg.wf = true)
    (hsamples : s.adcSample.length = s.cfg.nAdc) : channelsPresent s = true := by
  obtain ⟨_, _, hmap, _, _, hfs, _⟩ := Config.wf_analog hwf
  rw [channelsPresent_iff, hsamples]
  exact ⟨hmap, hfs⟩

/-- Settles O38: the key scan touches neither the configuration nor the samples that the latch reads. -/
theorem scanCycleIsKeysThenKnobs : Obligations.ScanCycleIsKeysThenKnobs := by
  refine fun s => ⟨⟨keyScan s, exec_scKeyscan s, rfl⟩, fun hwf hsamples => ?completes⟩
  have hchannels : channelsPresent (keyScan s) = true :=
    channelsPresent_of_sizes (s := keyScan s) hwf hsamples
  obtain ⟨t, ht⟩ := knobLatch_next hchannels
  exact ⟨t, ht, by rw [exec_schScan, exec_scCycle, ht, andThen_next]⟩

end Sys2Proof.Machine
end

section
/-! PROOFS. The command strobes of 44_command_strobes.md R240 to R248: which command a frame selects,
and what each command does. -/

namespace Sys2Proof.Machine

/-! ### The route lookup (R240, R241, R247, R248) -/

theorem runCommand_led (r : Routes) (args : List Arg) :
    runCommand r ⟨"/led", args⟩ = if r.led then ledCommand args else .unmatched := by
  simp [runCommand]

theorem runCommand_shutdown (r : Routes) (args : List Arg) :
    runCommand r ⟨"/shutdown", args⟩ = if r.shutdown then .shutdown else .unmatched := by
  simp [runCommand]

theorem runCommand_nf (r : Routes) (args : List Arg) :
    runCommand r ⟨"/nf", args⟩ = if r.nf then .nf else .unmatched := by
  simp [runCommand]

theorem runCommand_getknobs (r : Routes) (args : List Arg) :
    runCommand r ⟨"/getknobs", args⟩ = if r.getknobs then .getknobs else .unmatched := by
  simp [runCommand]

/-- Settles O4: one lookup equation per route; an address off the four leaves `runCommand_cases` only
its last case. -/
theorem framesSelectCommands : Obligations.FramesSelectCommands := by
  refine ⟨fun _ => rfl, fun r v args => runCommand_led r (.int v :: args),
    fun r bytes args => ?noInteger,
    fun r args => ⟨runCommand_shutdown r args, runCommand_nf r args, runCommand_getknobs r args⟩,
    fun r f hoff => ?other⟩
  case noInteger =>
    exact ⟨(runCommand_led r []).trans (ite_self _),
      (runCommand_led r (.blob bytes :: args)).trans (ite_self _)⟩
  case other =>
    simp only [List.mem_cons, List.not_mem_nil, or_false, not_or] at hoff
    obtain ⟨hled, hshutdown, hnf, hgetknobs⟩ := hoff
    rcases runCommand_cases r f with ⟨ha, _⟩ | ⟨ha, _⟩ | ⟨ha, _⟩ | ⟨ha, _⟩ | hunmatched
    · exact absurd ha hled
    · exact absurd ha hshutdown
    · exact absurd ha hnf
    · exact absurd ha hgetknobs
    · exact hunmatched

/-! ### `CMD.LED` (R242, R104) -/

theorem exec_cmdLed (v : Word) (s : State) :
    exec (.cmdLed v) s = .next { s with rgb := ledColour v } := rfl

theorem ledColour_eq (v : Word) :
    ledColour v = ⟨v.toNat / 4 % 2 = 1, v.toNat / 2 % 2 = 1, v.toNat % 2 = 1⟩ := by
  simp only [ledColour, ← BitVec.testBit_toNat, Nat.testBit_eq_decide_div_mod_eq, Nat.reducePow,
    Nat.pow_zero, Nat.div_one]

theorem ledColour_congr {v w : Word} (h : v.toNat % 8 = w.toNat % 8) : ledColour v = ledColour w := by
  have hred : v.toNat / 4 % 2 = w.toNat / 4 % 2 := by omega
  have hgreen : v.toNat / 2 % 2 = w.toNat / 2 % 2 := by omega
  have hblue : v.toNat % 2 = w.toNat % 2 := by omega
  rw [ledColour_eq, ledColour_eq, hred, hgreen, hblue]

/-- Settles O39: the colour is a function of the three low bits, which agree when the argument does
modulo 8. (The name `ledColour` is the model's function.) -/
theorem ledColour_cmdLed : Obligations.LedColour := by
  refine fun s v => ⟨?colour, fun w h => ?modulo⟩
  case colour => rw [exec_cmdLed, ledColour_eq]
  case modulo => rw [exec_cmdLed, exec_cmdLed, ledColour_congr h]

/-! ### `CMD.READY`, `CMD.NF`, `CMD.GETKNOBS`, `CMD.UNMATCHED` (R241, R244 to R246) -/

theorem exec_cmdReady (s : State) : exec .cmdReady s = .next { s with pc := .run .midiDrain } := rfl

theorem exec_cmdNf (s : State) :
    exec .cmdNf s = .next { s with stopwatch := 0, snapshotPending := true } := rfl

theorem exec_cmdGetknobs (s : State) :
    exec .cmdGetknobs s = .next { s with out := s.out ++ [knobsFrame s.knob] } := rfl

theorem exec_cmdUnmatched (s : State) : exec .cmdUnmatched s = .next s := rfl

/-- A knob argument is the sample's value in 32 bits (R275, D24). -/
theorem sampleArg_eq (v : Sample) : sampleArg v = .int (BitVec.ofNat 32 v.toNat) := by
  rw [sampleArg, BitVec.ofNat_toNat]

theorem knobsFrame_eq (knob : List Sample) :
    knobsFrame knob = ⟨"/knobs", knob.map fun v => .int (BitVec.ofNat 32 v.toNat)⟩ := by
  rw [knobsFrame, funext sampleArg_eq]

/-- Settles O40: the equations of the four commands, with the knob frame written out. -/
theorem plainCommands : Obligations.PlainCommands := fun s =>
  ⟨exec_cmdReady s, exec_cmdNf s, by rw [exec_cmdGetknobs, knobsFrame_eq], exec_cmdUnmatched s⟩

/-! ### Shutdown (R243, R272, U15) -/

theorem exec_shutdown {i : Instr} (hi : i = .cmdShutdown ∨ i = .schShutdown) (s : State) :
    exec i s = .next (shutdownRoutine s) := by
  rcases hi with rfl | rfl
  · rfl
  · rfl

/-- Settles O41: both rows run the one routine, whose every write `shutdownRoutine_eq` names. -/
theorem shutdownHalts : Obligations.ShutdownHalts := by
  refine fun s i hi => ⟨shutdownRoutine s, exec_shutdown hi s, ?_⟩
  rw [shutdownRoutine_eq]
  refine ⟨rfl, rfl, fun hdisplay => ⟨Config.freeDisplay s.freeCount, ?cleared⟩,
    fun hnone => ?untouched, rfl⟩
  case cleared => simp only [hdisplay, if_true]
  case untouched => simp [hnone]

end Sys2Proof.Machine
end

section
/-! PROOFS. No unsolicited snapshot (45_scheduler.md R271): what a step appends to `out`, how GATE comes
to its emission, and the count of notices not yet answered. -/

namespace Sys2Proof.Machine

/-! ### Counting frames -/

theorem countFrames_append (address : String) (fs gs : List Frame) :
    countFrames address (fs ++ gs) = countFrames address fs + countFrames address gs := by
  simp [countFrames]

theorem countFrames_singleton (address : String) (f : Frame) :
    countFrames address [f] = if f.address = address then 1 else 0 := by
  by_cases h : f.address = address <;> simp [countFrames, h]

theorem countFrames_eq_zero {address : String} {fs : List Frame}
    (h : ∀ f ∈ fs, f.address ≠ address) : countFrames address fs = 0 := by
  simpa [countFrames] using h

theorem countFrames_le_of_suffix {address : String} {fs gs : List Frame} (h : fs <:+ gs) :
    countFrames address fs ≤ countFrames address gs :=
  (h.sublist.filter _).length_le

/-- One notice removed from the head of the queue. -/
theorem countFrames_cons_self {f : Frame} {address : String} (hf : f.address = address)
    (fs : List Frame) : countFrames address (f :: fs) = countFrames address fs + 1 := by
  simp [countFrames, hf]

/-! ### What a step sends -/

/-- Appends to `out`, but no `/mblob` frame. -/
def SendsNoBlob (s t : State) : Prop :=
  ∃ l, t.out = s.out ++ l ∧ ∀ f ∈ l, f.address ≠ "/mblob"

/-- The emission of GATE: the pair is appended, the flag cleared, the queue of frames left. -/
def EmitsPair (s t : State) : Prop :=
  s.pc = .run .gateSend ∧ t.pc = .run .midiDrain ∧ t.snapshotPending = false ∧
    t.cmdRx = s.cmdRx ∧ t.out = s.out ++ [mblobFrame (blobBytes s), knobsFrame s.knob]

theorem SendsNoBlob.of_eq {s t : State} (h : t.out = s.out) : SendsNoBlob s t :=
  ⟨[], by rw [h, List.append_nil], nofun⟩

theorem SendsNoBlob.of_address {s t : State} {l : List Frame} {address : String}
    (hout : t.out = s.out ++ l) (hl : ∀ f ∈ l, f.address = address) (ha : address ≠ "/mblob") :
    SendsNoBlob s t :=
  ⟨l, hout, fun f hf => hl f hf ▸ ha⟩

theorem SendsNoBlob.countFrames_eq {s t : State} (h : SendsNoBlob s t) :
    countFrames "/mblob" t.out = countFrames "/mblob" s.out := by
  obtain ⟨l, hout, hl⟩ := h
  rw [hout, countFrames_append, countFrames_eq_zero hl, Nat.add_zero]

theorem EmitsPair.countFrames_eq {s t : State} (h : EmitsPair s t) :
    countFrames "/mblob" t.out = countFrames "/mblob" s.out + 1 := by
  obtain ⟨_, _, _, _, hout⟩ := h
  rw [hout, countFrames_append]
  rfl

/-- Of the foreground's actions the knobs command, the scanner's two operations and a drained byte send
frames of other addresses, and the emission sends the pair. -/
theorem ForegroundAction.sends {s t : State} (h : ForegroundAction s t) :
    SendsNoBlob s t ∨ EmitsPair s t := by
  cases h with
  | poll => rw [pollSleep_frame]; exact .inl (.of_eq rfl)
  | pollShutdown => rw [shutdownRoutine_eq]; exact .inl (.of_eq rfl)
  | drainByte b rest _ _ _ _ hexec => exact .inl (effect_of_exec_decodeByte hexec).out
  | pollGetknobs =>
    have hknobs : ∀ f ∈ [knobsFrame s.knob], f.address = "/knobs" := List.forall_mem_singleton.mpr rfl
    exact .inl (.of_address rfl hknobs (by decide))
  | scanKeys =>
    obtain ⟨l, hout, hl⟩ := keyScan_out s
    exact .inl (.of_address hout hl (by decide))
  | scanBatch =>
    obtain ⟨l, hout, hl⟩ := knobLatch_out (sampleAt s s.cfg.fsChannel) s
    exact .inl (.of_address hout hl (by decide))
  | gateSends _ hpc => exact .inr ⟨hpc, rfl, rfl, rfl, rfl⟩
  | _ => exact .inl (.of_eq rfl)

theorem step_sends {s t : State} (hstep : step s = .next t) : SendsNoBlob s t ∨ EmitsPair s t := by
  rcases step_next_cases hstep with ⟨u, hturn, haction⟩ | ⟨e, m, _, _, henv⟩
  · have hsends := haction.sends
    rw [hturn.eq] at hsends
    exact hsends
  · exact .inl (.of_eq (by rw [environment_frame henv]))

theorem emitsPair_of_countFrames_ne {s t : State} (hstep : step s = .next t)
    (hcount : countFrames "/mblob" t.out ≠ countFrames "/mblob" s.out) : EmitsPair s t :=
  (step_sends hstep).resolve_left fun h => hcount h.countFrames_eq

/-! ### How GATE comes to its emission -/

/-- `t` is at the emission because `s` was and the flag was left, or because the test of GATE has just
held. -/
def ReachesEmission (s t : State) : Prop :=
  (s.pc = .run .gateSend ∧ t.snapshotPending = s.snapshotPending) ∨
  (s.pc = .run .gate ∧ s.snapshotPending = true ∧ s.cfg.gateThreshold < s.stopwatch ∧
    t.snapshotPending = true)

theorem ForegroundAction.reachesEmission {s t : State} (h : ForegroundAction s t)
    (hsend : t.pc = .run .gateSend) : ReachesEmission s t := by
  cases h with
  | poll =>
    rw [pollSleep_frame] at hsend ⊢
    exact .inl ⟨hsend, rfl⟩
  | gateOpens _ hpc hpending helapsed => exact .inr ⟨hpc, hpending, helapsed, hpending⟩
  | drainByte b rest _ _ hpc _ hexec =>
    rw [(effect_of_exec_decodeByte hexec).frame] at hsend
    simp [hpc] at hsend
  | halted => exact .inl ⟨hsend, rfl⟩
  | _ => cases hsend

theorem step_reachesEmission {s t : State} (hstep : step s = .next t)
    (hsend : t.pc = .run .gateSend) : ReachesEmission s t := by
  rcases step_next_cases hstep with ⟨u, hturn, haction⟩ | ⟨e, m, _, _, henv⟩
  · have hreaches := haction.reachesEmission hsend
    rw [hturn.eq] at hreaches
    exact hreaches
  · rw [environment_frame henv] at hsend ⊢
    exact .inl ⟨hsend, rfl⟩

/-- Every step keeps that GATE emits only with a snapshot pending. -/
theorem SendingIsPending.of_step {s t : State} (h : SendingIsPending s) (hstep : step s = .next t) :
    SendingIsPending t := by
  intro hsend
  rcases step_reachesEmission hstep hsend with ⟨hpc, hkept⟩ | ⟨_, _, _, hpending⟩
  · rw [hkept]
    exact h hpc
  · exact hpending

/-- Settles O50: a step that changes the count of `/mblob` frames is the emission, and the emission is
reached from the test of GATE alone. -/
theorem noUnsolicitedSnapshot : Obligations.NoUnsolicitedSnapshot := by
  intro s t hstep
  refine ⟨fun h => ⟨h.of_step hstep, fun hcount => ?solicited⟩, fun hcount => ?emission,
    fun hsend hnot => ?reached, fun hsend hpc => ?kept⟩
  case solicited =>
    obtain ⟨hpc, _⟩ := emitsPair_of_countFrames_ne hstep hcount
    exact h hpc
  case emission =>
    have hemits := emitsPair_of_countFrames_ne hstep hcount
    have ⟨hpc, _, hcleared, _, hout⟩ := hemits
    exact ⟨hpc, hemits.countFrames_eq, ⟨_, _, hout⟩, hcleared⟩
  case reached =>
    exact (step_reachesEmission hstep hsend).resolve_left fun ⟨hpc, _⟩ => hnot hpc
  case kept =>
    rcases step_reachesEmission hstep hsend with ⟨_, hkept⟩ | ⟨hgate, _⟩
    · exact hkept
    · cases hpc.symm.trans hgate

/-! ### Notices not yet answered -/

/-- The notices received and not yet answered: one taken, and the ones still queued. -/
def openNotices (s : State) : Nat := pendingCount s + countFrames "/nf" s.cmdRx

theorem pendingCount_le_one (s : State) : pendingCount s ≤ 1 := by
  unfold pendingCount
  split <;> omega

theorem pendingCount_eq_one {s : State} (h : s.snapshotPending = true ∨ s.pc = .run .nfArm) :
    pendingCount s = 1 :=
  if_pos h

theorem pendingCount_eq_zero {s : State} (hflag : s.snapshotPending = false)
    (hpc : s.pc ≠ .run .nfArm) : pendingCount s = 0 :=
  if_neg (by simp [hflag, hpc])

/-- Away from the arming position, a flag not set and a queue only shortened add no open notice. -/
theorem openNotices_le {s t : State} (hpc : t.pc ≠ .run .nfArm)
    (hflag : t.snapshotPending = true → s.snapshotPending = true) (hrx : t.cmdRx <:+ s.cmdRx) :
    openNotices t ≤ openNotices s := by
  have hqueued := countFrames_le_of_suffix (address := "/nf") hrx
  have htaken : pendingCount t ≤ pendingCount s := by
    cases hpending : t.snapshotPending with
    | true =>
      rw [pendingCount_eq_one (.inl (hflag hpending))]
      exact pendingCount_le_one t
    | false =>
      rw [pendingCount_eq_zero hpending hpc]
      exact Nat.zero_le _
  exact Nat.add_le_add htaken hqueued

/-- No action of the foreground adds an open notice: a taken one moves from the queue to the arming
position, and from there to the flag. -/
theorem ForegroundAction.openNotices_le {s t : State} (h : ForegroundAction s t) :
    openNotices t ≤ openNotices s := by
  cases h with
  | poll => rw [pollSleep_frame]; exact Nat.le_refl _
  | drainByte b rest _ _ hpc _ hexec =>
    rw [(effect_of_exec_decodeByte hexec).frame]
    exact Machine.openNotices_le (by simp [hpc]) id (List.suffix_refl _)
  | pollShutdown f rest _ _ hrx =>
    rw [shutdownRoutine_eq]
    exact Machine.openNotices_le nofun id (hrx ▸ List.suffix_cons f rest)
  | pollNf f rest _ _ hrx hf =>
    have hqueued := countFrames_cons_self hf rest
    rw [← hrx] at hqueued
    show pendingCount _ + countFrames "/nf" rest ≤ pendingCount s + countFrames "/nf" s.cmdRx
    rw [pendingCount_eq_one (.inr rfl), hqueued]
    omega
  | noticeArms _ hpc =>
    show pendingCount _ + _ ≤ pendingCount s + _
    rw [pendingCount_eq_one (.inl rfl), pendingCount_eq_one (.inr hpc)]
  | bootReady f rest _ _ hrx | bootDiscard f rest _ _ hrx | pollLed f rest _ _ _ hrx
  | pollGetknobs f rest _ _ hrx | pollDiscard f rest _ _ hrx =>
    exact Machine.openNotices_le nofun id (hrx ▸ List.suffix_cons f rest)
  | scanBatch => rw [fsPoll_frame]; exact Machine.openNotices_le nofun id (List.suffix_refl _)
  | gateSends => exact Machine.openNotices_le nofun nofun (List.suffix_refl _)
  | halted => exact Nat.le_refl _
  | _ => exact Machine.openNotices_le nofun id (List.suffix_refl _)

/-- The emission answers the open notice that the flag stands for. -/
theorem EmitsPair.openNotices_succ {s t : State} (h : EmitsPair s t)
    (hpending : s.snapshotPending = true) : openNotices t + 1 = openNotices s := by
  obtain ⟨_, hpc, hcleared, hrx, _⟩ := h
  unfold openNotices
  rw [pendingCount_eq_zero hcleared (by simp [hpc]), pendingCount_eq_one (.inl hpending), hrx]
  omega

/-- The notice that a move brings. -/
def arrivingNotices : List Event → Nat
  | .framePush f :: _ => if f.address = "/nf" then 1 else 0
  | _ => 0

/-- A move of `IRQ` or of the environment adds an open notice only by bringing one. -/
theorem environment_openNotices {e : Event} {s t : State} (m : List Event)
    (henv : environment e s = .next t) :
    openNotices t = openNotices s + arrivingNotices (e :: m) := by
  rcases environment_cases henv with ⟨rfl, rfl⟩ | ⟨rfl, rfl⟩ | ⟨b, rfl, rfl⟩ | ⟨f, rfl, rfl⟩ |
    ⟨l, rfl, _, rfl⟩ | ⟨l, rfl, _, _, rfl⟩ | ⟨c, v, rfl, _, _, rfl⟩
  case inr.inl => rw [takeTick_frame]; rfl
  case inr.inr.inl => rw [pushMidi_frame]; rfl
  case inr.inr.inr.inl =>
    show pendingCount s + countFrames "/nf" (s.cmdRx ++ [f]) = _
    rw [countFrames_append, countFrames_singleton, ← Nat.add_assoc]
    rfl
  all_goals rfl

theorem step_openNotices_le {s t : State} (hstep : step s = .next t) :
    openNotices t ≤ openNotices s + arrivingNotices s.sched := by
  rcases step_next_cases hstep with ⟨u, hturn, haction⟩ | ⟨e, m, hsched, _, henv⟩
  · have hle := haction.openNotices_le
    rw [hturn.eq] at hle
    exact Nat.le_add_right_of_le hle
  · rw [hsched]
    exact (environment_openNotices m henv).le

/-- Settles O51: a step that sends no pair adds open notices only by an arrival, and the emission
answers the one that is pending. -/
theorem snapshotsNeverExceedNotices : Obligations.SnapshotsNeverExceedNotices := by
  intro s t h hstep
  refine ⟨h.of_step hstep, ?_⟩
  show countFrames "/mblob" t.out + pendingCount t + countFrames "/nf" t.cmdRx ≤
    countFrames "/mblob" s.out + pendingCount s + countFrames "/nf" s.cmdRx + arrivingNotices s.sched
  rw [Nat.add_assoc, Nat.add_assoc _ (pendingCount s)]
  show countFrames "/mblob" t.out + openNotices t ≤
    countFrames "/mblob" s.out + openNotices s + arrivingNotices s.sched
  rcases step_sends hstep with hsilent | hemits
  · have hle := step_openNotices_le hstep
    rw [hsilent.countFrames_eq]
    omega
  · have ⟨hpc, _⟩ := hemits
    have hanswered := hemits.openNotices_succ (h hpc)
    rw [hemits.countFrames_eq]
    omega

end Sys2Proof.Machine
end

section
/-! PROOFS. The positions of the sequencer (45_scheduler.md R260 to R273): which action a turn of the
foreground is, which phases follow which, and what Boot-Wait and `Halted` leave. -/

namespace Sys2Proof.Machine

/-! ### The turn at a position -/

/-- The state before the turn was taken off the schedule. -/
theorem ForegroundTurn.eq_before {s t : State} (h : ForegroundTurn s t) :
    ∃ m, s = { t with sched := m } :=
  ⟨s.sched, by rw [h.eq]⟩

theorem foreground_init {s : State} {p : InitStep} (hawake : s.sleeping = false)
    (hpc : s.pc = .init p) : foreground s = initAction p s := by
  simp only [foreground, hawake, hpc, Bool.false_eq_true, if_false]

theorem foreground_bootWait {s : State} {p : BootStep} (hawake : s.sleeping = false)
    (hpc : s.pc = .bootWait p) : foreground s = bootAction p s := by
  simp only [foreground, hawake, hpc, Bool.false_eq_true, if_false]

theorem foreground_run {s : State} {p : RunStep} (hawake : s.sleeping = false)
    (hpc : s.pc = .run p) : foreground s = runAction p s := by
  simp only [foreground, hawake, hpc, Bool.false_eq_true, if_false]

theorem foreground_halted {s : State} (hawake : s.sleeping = false) (hpc : s.pc = .halted) :
    foreground s = .next s := by
  simp only [foreground, hawake, hpc, Bool.false_eq_true, if_false]

theorem foreground_sleeping {s : State} (h : s.sleeping = true) :
    foreground s = .next (pollSleep s) :=
  if_pos h

theorem step_at_init {s t : State} {p : InitStep} (hturn : ForegroundTurn s t)
    (hawake : s.sleeping = false) (hpc : s.pc = .init p) : step s = initAction p t := by
  rw [step_of_turn hturn]
  obtain ⟨m, rfl⟩ := hturn.eq_before
  exact foreground_init hawake hpc

theorem step_at_bootWait {s t : State} {p : BootStep} (hturn : ForegroundTurn s t)
    (hawake : s.sleeping = false) (hpc : s.pc = .bootWait p) : step s = bootAction p t := by
  rw [step_of_turn hturn]
  obtain ⟨m, rfl⟩ := hturn.eq_before
  exact foreground_bootWait hawake hpc

theorem step_at_run {s t : State} {p : RunStep} (hturn : ForegroundTurn s t)
    (hawake : s.sleeping = false) (hpc : s.pc = .run p) : step s = runAction p t := by
  rw [step_of_turn hturn]
  obtain ⟨m, rfl⟩ := hturn.eq_before
  exact foreground_run hawake hpc

theorem step_at_halted {s t : State} (hturn : ForegroundTurn s t) (hawake : s.sleeping = false)
    (hpc : s.pc = .halted) : step s = .next t := by
  rw [step_of_turn hturn]
  obtain ⟨m, rfl⟩ := hturn.eq_before
  exact foreground_halted hawake hpc

/-! ### One action of the drain -/

theorem drainAction_nil {s : State} (h : s.midiRx = []) :
    drainAction s = .next { s with pc := .run .cmdPoll } := by
  simp only [drainAction, h]

theorem drainAction_cons {s : State} {b : Byte} {rest : List Byte} (h : s.midiRx = b :: rest) :
    drainAction s = exec (decodeByte s.cfg.status b) { s with midiRx := rest } := by
  simp only [drainAction, h]

/-- Settles O5: at MIDI_DRAIN the turn is the drain's action. -/
theorem stepRunsDecodedByte : Obligations.StepRunsDecodedByte := by
  intro s t hturn hawake hpc
  rw [step_at_run hturn hawake hpc]
  obtain ⟨m, rfl⟩ := hturn.eq_before
  exact ⟨fun _ _ hrx => drainAction_cons hrx, fun hrx => drainAction_nil hrx⟩

/-! ### Phases (R260) -/

/-- The phase stays or advances as R260 lets it. -/
def PhaseAdvances (p q : Phase) : Prop :=
  q = p ∨ (p = .init ∧ q = .bootWait) ∨ (p = .init ∧ q = .halted) ∨ (p = .bootWait ∧ q = .run) ∨
    (p = .run ∧ q = .halted)

theorem ForegroundAction.phaseAdvances {s t : State} (h : ForegroundAction s t) :
    PhaseAdvances s.phase t.phase := by
  cases h with
  | poll => rw [pollSleep_frame]; exact .inl rfl
  | halted => exact .inl rfl
  | initFails _ hpc => exact .inr (.inr (.inl ⟨phase_of_pc_init hpc, rfl⟩))
  | initArms _ hpc => exact .inl (phase_of_pc_init hpc).symm
  | initEnds _ hpc => exact .inr (.inl ⟨phase_of_pc_init hpc, rfl⟩)
  | bootReady _ _ _ hpc => exact .inr (.inr (.inr (.inl ⟨phase_of_pc_bootWait hpc, rfl⟩)))
  | bootNoFrame _ hpc | bootDiscard _ _ _ hpc | stallExceeded _ hpc | stallNotYet _ hpc
  | stallResets _ hpc | stallShows _ hpc => exact .inl (phase_of_pc_bootWait hpc).symm
  | drainByte b rest _ _ _ _ hexec => rw [(effect_of_exec_decodeByte hexec).frame]; exact .inl rfl
  | pollShutdown _ _ _ hpc =>
    rw [shutdownRoutine_eq]
    exact .inr (.inr (.inr (.inr ⟨phase_of_pc_run hpc, rfl⟩)))
  | drainEnds _ hpc | pollNoFrame _ hpc | pollLed _ _ _ _ hpc | pollNf _ _ _ hpc
  | noticeArms _ hpc | pollGetknobs _ _ _ hpc | pollDiscard _ _ _ hpc | scanKeys _ hpc
  | scanNoBatch _ hpc | scanBatch _ hpc | gateOpens _ hpc | gateHolds _ hpc | gateSends _ hpc =>
    exact .inl (phase_of_pc_run hpc).symm

/-- Settles O52: only the foreground moves the position. -/
theorem phasesOnlyAdvance : Obligations.PhasesOnlyAdvance := by
  intro s t hstep
  rcases step_next_cases hstep with ⟨u, hturn, haction⟩ | ⟨e, m, _, _, henv⟩
  · have hphase := haction.phaseAdvances
    rw [hturn.eq] at hphase
    exact hphase
  · rw [environment_frame henv]
    exact .inl rfl

/-! ### The queues under a move of another agent -/

/-- A move of `IRQ` or of the environment removes no frame. -/
theorem environment_cmdRx {e : Event} {s t : State} (henv : environment e s = .next t) :
    ∃ l, t.cmdRx = s.cmdRx ++ l := by
  rcases environment_cases henv with ⟨_, rfl⟩ | ⟨_, rfl⟩ | ⟨b, _, rfl⟩ | ⟨f, _, rfl⟩ |
    ⟨l, _, _, rfl⟩ | ⟨l, _, _, _, rfl⟩ | ⟨c, v, _, _, _, rfl⟩
  case inr.inr.inr.inl => exact ⟨[f], rfl⟩
  case inr.inl => rw [takeTick_frame]; exact ⟨[], (List.append_nil _).symm⟩
  case inr.inr.inl => rw [pushMidi_frame]; exact ⟨[], (List.append_nil _).symm⟩
  all_goals exact ⟨[], (List.append_nil _).symm⟩

/-- With room for the byte it pushes it removes no byte either. -/
theorem environment_midiRx {e : Event} {s t : State} (henv : environment e s = .next t)
    (hroom : ∀ b, e = .midiPush b → s.midiRx.length < s.cfg.rxCap) :
    ∃ l, t.midiRx = s.midiRx ++ l := by
  rcases environment_cases henv with ⟨_, rfl⟩ | ⟨_, rfl⟩ | ⟨b, hb, rfl⟩ | ⟨f, _, rfl⟩ |
    ⟨l, _, _, rfl⟩ | ⟨l, _, _, _, rfl⟩ | ⟨c, v, _, _, _, rfl⟩
  case inr.inr.inl =>
    rcases pushMidi_length b s with ⟨_, happended⟩ | ⟨hfull, _⟩
    · exact ⟨[b], happended⟩
    · exact absurd (hroom b hb) (Nat.not_lt.mpr hfull)
  case inr.inl => rw [takeTick_frame]; exact ⟨[], (List.append_nil _).symm⟩
  all_goals exact ⟨[], (List.append_nil _).symm⟩

/-- The same of the move at the head of the schedule. -/
theorem environment_midiRx_of_sched {s t : State} {e : Event} {m : List Event}
    (hsched : s.sched = e :: m) (henv : environment e { s with sched := m } = .next t)
    (hroom : ∀ b m, s.sched = .midiPush b :: m → s.midiRx.length < s.cfg.rxCap) :
    ∃ l, t.midiRx = s.midiRx ++ l :=
  environment_midiRx (s := { s with sched := m }) henv
    fun b hb => hroom b m (hb ▸ hsched)

/-! ### `Halted` (R272) -/

/-- In `Halted` the foreground changes at most `sleeping`. -/
theorem foreground_of_halted {s : State} (hpc : s.pc = .halted) :
    ∃ b, foreground s = .next { s with sleeping := b } := by
  cases hsleep : s.sleeping with
  | true => exact ⟨_, (foreground_sleeping hsleep).trans (congrArg _ (pollSleep_frame s))⟩
  | false => exact ⟨false, by rw [foreground_halted hsleep hpc, ← hsleep]⟩

/-- Settles O53: the foreground is at rest, and another agent's move reaches its port alone. -/
theorem haltedIsFinal : Obligations.HaltedIsFinal := by
  intro s hpc
  refine ⟨fun t hturn hawake => step_at_halted hturn hawake hpc, fun t hstep => ?_⟩
  rcases step_cases s with ⟨m, hturn⟩ | ⟨e, m, hsched, _, hmove⟩
  · obtain ⟨b, hforeground⟩ := foreground_of_halted (s := { s with sched := m }) hpc
    rw [hturn, hforeground] at hstep
    cases hstep
    exact ⟨rfl, ⟨[], (List.append_nil _).symm⟩, fun _ => ⟨[], (List.append_nil _).symm⟩⟩
  · rw [hmove] at hstep
    exact ⟨by rw [environment_frame hstep], environment_cmdRx (s := { s with sched := m }) hstep,
      environment_midiRx_of_sched hsched hstep⟩

/-! ### Boot-Wait (R261 to R263) -/

theorem framePoll_nil {s : State} (h : s.cmdRx = []) :
    framePoll s = .next { s with pc := .bootWait .stallCheck } := by
  simp only [framePoll, h]

theorem framePoll_ready {s : State} {f : Frame} {rest : List Frame} (hrx : s.cmdRx = f :: rest)
    (hf : f.address = "/ready") :
    framePoll s = .next { s with cmdRx := rest, pc := .run .midiDrain } := by
  simp only [framePoll, hrx, bootCommand, hf, if_true, runStrobe, execCmdReady]

theorem framePoll_discard {s : State} {f : Frame} {rest : List Frame} (hrx : s.cmdRx = f :: rest)
    (hf : f.address ≠ "/ready") :
    framePoll s = .next { s with cmdRx := rest, pc := .bootWait .stallCheck } := by
  simp only [framePoll, hrx, bootCommand, hf, if_false, runStrobe, execCmdUnmatched, raise]

/-- Without the ready signal at the head of the queue FRAME_POLL goes on to STALL_CHECK. -/
theorem framePoll_waits {s : State} (h : ∀ f ∈ s.cmdRx.head?, f.address ≠ "/ready") :
    framePoll s = .next { s with cmdRx := s.cmdRx.tail, pc := .bootWait .stallCheck } := by
  cases hrx : s.cmdRx with
  | nil => rw [framePoll_nil hrx, List.tail_nil, ← hrx]
  | cons f rest => exact framePoll_discard hrx (h f (by rw [hrx]; rfl))

theorem stallRead_exceeded {s : State} (h : s.cfg.bootStallThreshold < s.stopwatch) :
    stallRead s = { s with pc := .bootWait .stallReset } :=
  if_pos ((stopwatchExceeds_iff _ s).mpr h)

theorem stallRead_notYet {s : State} (h : s.stopwatch ≤ s.cfg.bootStallThreshold) :
    stallRead s = { s with pc := .bootWait .framePoll } :=
  if_neg fun hexceeds => Nat.not_lt.mpr h ((stopwatchExceeds_iff _ s).mp hexceeds)

theorem stallCheck_exceeded {s : State} (h : s.cfg.bootStallThreshold < s.stopwatch) :
    stallCheck s = stallShow (stallReset s) :=
  if_pos ((stopwatchExceeds_iff _ s).mpr h)

theorem stallCheck_notYet {s : State} (h : s.stopwatch ≤ s.cfg.bootStallThreshold) :
    stallCheck s = { s with pc := .bootWait .framePoll } :=
  if_neg fun hexceeds => Nat.not_lt.mpr h ((stopwatchExceeds_iff _ s).mp hexceeds)

theorem stallReset_eq (s : State) :
    stallReset s = { s with stopwatch := 0, pc := .bootWait .stallShow } := rfl

theorem stallShow_eq (s : State) :
    stallShow s = { s with
      bootProgress := min (s.bootProgress + 1) s.cfg.bootProgressMax
      display := s.display ++ (if s.cfg.hasDisplay then
        [.drawProgress (min (s.bootProgress + 1) s.cfg.bootProgressMax)] else [])
      pc := .bootWait .framePoll } := by
  rw [stallShow, advanceProgress_eq]

/-- What an action in Boot-Wait changes at most. -/
def BootWaits (s t : State) : Prop :=
  t = { s with
    pc := t.pc, stopwatch := t.stopwatch, sleeping := t.sleeping, bootProgress := t.bootProgress
    display := t.display, cmdRx := t.cmdRx }

theorem framePoll_bootWaits {s t : State} (h : framePoll s = .next t) : BootWaits s t := by
  cases hrx : s.cmdRx with
  | nil =>
    rw [framePoll_nil hrx] at h
    cases h
    rfl
  | cons f rest =>
    by_cases hf : f.address = "/ready"
    · rw [framePoll_ready hrx hf] at h
      cases h
      rfl
    · rw [framePoll_discard hrx hf] at h
      cases h
      rfl

theorem stallRead_bootWaits (s : State) : BootWaits s (stallRead s) := by
  unfold stallRead
  split
  · rfl
  · rfl

theorem bootAction_bootWaits {p : BootStep} {s t : State} (h : bootAction p s = .next t) :
    BootWaits s t := by
  cases p with
  | framePoll => exact framePoll_bootWaits h
  | stallCheck => cases h; exact stallRead_bootWaits s
  | stallReset => cases h; exact rfl
  | stallShow =>
    cases h
    rw [stallShow_eq]
    rfl

theorem pc_of_phase_bootWait {s : State} (h : s.phase = .bootWait) : ∃ p, s.pc = .bootWait p := by
  unfold State.phase Pc.phase at h
  cases hpc : s.pc with
  | bootWait p => exact ⟨p, rfl⟩
  | _ => simp [hpc] at h

theorem foreground_bootWaits {s t : State} (hphase : s.phase = .bootWait)
    (h : foreground s = .next t) : BootWaits s t := by
  cases hsleep : s.sleeping with
  | true =>
    rw [foreground_sleeping hsleep, pollSleep_frame] at h
    cases h
    rfl
  | false =>
    obtain ⟨p, hpc⟩ := pc_of_phase_bootWait hphase
    rw [foreground_bootWait hsleep hpc] at h
    exact bootAction_bootWaits h

/-- Settles O54: an action in Boot-Wait polls frames or the stopwatch, and another agent's move reaches
its port alone. -/
theorem bootWaitOnlyWaits : Obligations.BootWaitOnlyWaits := by
  intro s t hstep hphase
  rcases step_cases s with ⟨m, hturn⟩ | ⟨e, m, hsched, _, hmove⟩
  · rw [hturn] at hstep
    have hwaits : BootWaits { s with sched := m } t := foreground_bootWaits hphase hstep
    rw [hwaits]
    exact ⟨rfl, fun _ => ⟨[], (List.append_nil _).symm⟩⟩
  · rw [hmove] at hstep
    exact ⟨by rw [environment_frame hstep], environment_midiRx_of_sched hsched hstep⟩

end Sys2Proof.Machine
end

section
/-! PROOFS. The operations of the scheduler (45_scheduler.md R261 to R270), each by what it leaves, and
what a turn of the foreground runs at each position (R260). -/

namespace Sys2Proof.Machine

/-! ### The rate-gate (R270) -/

theorem exec_schGate (s : State) : exec .schGate s = .next (gateStep s) := rfl

theorem gateStep_closed {s : State} (h : gateOpens s = false) :
    gateStep s = { s with pc := .run .midiDrain } := by
  rw [gateStep, if_neg (by simp [h])]

theorem gateStep_open {s : State} (h : gateOpens s = true) : gateStep s = gateSend s :=
  if_pos h

/-- Settles O46: the two outcomes of the gate, with the frames written out. -/
theorem gateSendsThePair : Obligations.GateSendsThePair := by
  intro s hwf
  rw [exec_schGate]
  refine ⟨fun hpending helapsed => ?sends, fun hclosed => ?holds⟩
  case sends =>
    rw [gateStep_open ((gateOpens_iff s).mpr ⟨hpending, helapsed⟩), gateSend_eq, knobsFrame_eq,
      blobBytes, Config.wf_blobSize hwf]
    rfl
  case holds => rw [gateStep_closed ((gateOpens_false s).mpr hclosed)]

/-- The blob after the read. -/
theorem afterSnapshot_blob (s : State) :
    (afterSnapshot s).blob = if s.cfg.snapshotClears then [] else s.blob := by
  unfold afterSnapshot
  split
  · rfl
  · rfl

/-! ### CMD_POLL (R266) -/

theorem exec_schCmdPoll (s : State) : exec .schCmdPoll s = cmdPoll s := rfl

theorem exec_commandInstr (c : Command) (s : State) : exec c.instr s = runStrobe c s := by
  cases c <;> rfl

theorem cmdPoll_nil {s : State} (h : s.cmdRx = []) :
    cmdPoll s = .next { s with pc := .run .scan } := by
  simp only [cmdPoll, h]

theorem cmdPoll_cons {s : State} {f : Frame} {rest : List Frame} (h : s.cmdRx = f :: rest) :
    cmdPoll s = andThen
      (runStrobe (runCommand s.cfg.routes f) { s with cmdRx := rest, pc := .run .cmdPoll })
      (fun t => .next (afterCommand t)) := by
  simp only [cmdPoll, h]

/-- Settles O44: a command's row is the command, and it always completes. -/
theorem cmdPollRoutesOneFrame : Obligations.CmdPollRoutesOneFrame := by
  refine fun s => ⟨fun hrx => cmdPoll_nil hrx, fun f rest hrx => ?routed⟩
  obtain ⟨u, hu⟩ := runStrobe_next (runCommand s.cfg.routes f)
    { s with cmdRx := rest, pc := .run .cmdPoll }
  refine ⟨u, (exec_commandInstr _ _).trans hu, ?_⟩
  rw [exec_schCmdPoll, cmdPoll_cons hrx, hu]
  rfl

/-- What a command changes at most. -/
def CommandLeaves (s t : State) : Prop :=
  t = { s with
    cmdRx := t.cmdRx, pc := t.pc, haltReason := t.haltReason, stopwatch := t.stopwatch
    snapshotPending := t.snapshotPending, rgb := t.rgb, out := t.out, display := t.display
    freeCount := t.freeCount }

theorem runStrobe_leaves {c : Command} {s t : State} (h : runStrobe c s = .next t) :
    CommandLeaves s t := by
  cases c <;> cases h
  case shutdown => rw [shutdownRoutine_eq]; rfl
  all_goals rfl

/-- No command but the notice touches what GATE tests. -/
theorem runStrobe_gateOpens {c : Command} {s t : State} (hc : c ≠ .nf)
    (h : runStrobe c s = .next t) : gateOpens t = gateOpens s := by
  cases c <;> cases h
  case shutdown => rw [shutdownRoutine_eq]; rfl
  case nf => exact absurd rfl hc
  all_goals rfl

theorem afterCommand_eq (s : State) :
    afterCommand s = { s with pc := if s.pc = .halted then .halted else .run .scan } := by
  unfold afterCommand
  split
  · next h => rw [← h]
  · rfl

theorem cmdPoll_leaves {s u : State} (h : cmdPoll s = .next u) : CommandLeaves s u := by
  cases hrx : s.cmdRx with
  | nil =>
    rw [cmdPoll_nil hrx] at h
    cases h
    rfl
  | cons f rest =>
    rw [cmdPoll_cons hrx, andThen_eq_next] at h
    obtain ⟨t, ht, hu⟩ := h
    cases hu
    rw [afterCommand_eq, runStrobe_leaves ht]
    rfl

/-- After CMD_POLL the block has halted or is at SCAN (R243, R264). -/
theorem cmdPoll_pc {s u : State} (h : cmdPoll s = .next u) : u.pc = .halted ∨ u.pc = .run .scan := by
  cases hrx : s.cmdRx with
  | nil =>
    rw [cmdPoll_nil hrx] at h
    cases h
    exact .inr rfl
  | cons f rest =>
    rw [cmdPoll_cons hrx, andThen_eq_next] at h
    obtain ⟨t, _, hu⟩ := h
    cases hu
    rw [afterCommand_eq]
    exact ite_eq_or_eq _ _ _

theorem noticeNext_cons {s : State} {f : Frame} {rest : List Frame} (h : s.cmdRx = f :: rest) :
    noticeNext s = decide (runCommand s.cfg.routes f = .nf) := by
  simp only [noticeNext, h]

/-- With a notice at the head of its queue, CMD_POLL is its two actions. -/
theorem cmdPoll_notice {s : State} (h : noticeNext s = true) :
    cmdPoll s = .next (noticeArm (noticeReset s)) := by
  obtain ⟨f, rest, hrx, hf⟩ := (noticeNext_iff s).mp h
  rw [cmdPoll_cons hrx, hf, noticeReset, hrx]
  rfl

theorem gateOpens_noticeArm_noticeReset (s : State) : gateOpens (noticeArm (noticeReset s)) = false :=
  (gateOpens_false _).mpr (.inr (Nat.zero_le _))

theorem gateOpens_cmdPoll {s u : State} (hno : noticeNext s = false) (h : cmdPoll s = .next u) :
    gateOpens u = gateOpens s := by
  cases hrx : s.cmdRx with
  | nil =>
    rw [cmdPoll_nil hrx] at h
    cases h
    rfl
  | cons f rest =>
    rw [noticeNext_cons hrx, decide_eq_false_iff_not] at hno
    rw [cmdPoll_cons hrx, andThen_eq_next] at h
    obtain ⟨t, ht, hu⟩ := h
    cases hu
    rw [afterCommand_eq]
    have hkept : gateOpens t = gateOpens s :=
      runStrobe_gateOpens (s := { s with cmdRx := rest, pc := .run .cmdPoll }) hno ht
    exact hkept

/-! ### SCAN (R267) -/

/-- What a knob latch changes at most. -/
def LatchLeaves (s t : State) : Prop :=
  t = { s with
    knob := t.knob, adcBatchComplete := t.adcBatchComplete, fsCandidate := t.fsCandidate
    fsBuf := t.fsBuf, fsSlot := t.fsSlot, fsLast := t.fsLast, out := t.out }

theorem knobLatch_leaves {s t : State} (h : knobLatch s = .next t) : LatchLeaves s t := by
  rcases knobLatch_cases s with ⟨_, hlatch⟩ | ⟨_, _, hlatch⟩ | ⟨_, _, hlatch⟩
  · rw [hlatch] at h
    cases h
    rfl
  · rw [hlatch, fsPoll_eq] at h
    cases h
    rfl
  · rw [hlatch] at h
    cases h

/-- The latch does not look at the position. -/
theorem knobLatch_pc (p : Pc) (s : State) :
    knobLatch { s with pc := p } = andThen (knobLatch s) (fun t => .next { t with pc := p }) := by
  rcases knobLatch_cases s with ⟨hbatch, hlatch⟩ | ⟨hbatch, hchannels, hlatch⟩ |
    ⟨hbatch, hchannels, hlatch⟩
  · rw [hlatch]
    exact knobLatch_noBatch (s := { s with pc := p }) hbatch
  · rw [hlatch, andThen_next, fsPoll_eq]
    exact (knobLatch_batch (s := { s with pc := p }) hbatch hchannels).trans
      (congrArg Host.Outcome.next (fsPoll_eq _ _))
  · rw [hlatch]
    exact knobLatch_absent (s := { s with pc := p }) hbatch hchannels

/-- What SCAN changes at most; it ends at GATE. -/
def ScanLeaves (s t : State) : Prop :=
  t = { s with
    keyGeneration := t.keyGeneration, keyGen := t.keyGen, keyLast := t.keyLast, knob := t.knob
    adcBatchComplete := t.adcBatchComplete, fsCandidate := t.fsCandidate, fsBuf := t.fsBuf
    fsSlot := t.fsSlot, fsLast := t.fsLast, out := t.out, pc := .run .gate }

theorem scanStep_eq (s : State) :
    scanStep s = andThen (knobLatch (keyScan s)) (fun t => .next { t with pc := .run .gate }) := rfl

theorem scanStep_leaves {s t : State} (h : scanStep s = .next t) : ScanLeaves s t := by
  rw [scanStep_eq, andThen_eq_next] at h
  obtain ⟨u, hu, ht⟩ := h
  cases ht
  rw [knobLatch_leaves hu, keyScan_eq]
  rfl

/-! ### What runs at each position (R260) -/

theorem pollAction_other {s : State} (h : noticeNext s = false) : pollAction s = cmdPoll s :=
  if_neg (by simp [h])

theorem pollAction_notice {s : State} (h : noticeNext s = true) :
    pollAction s = .next (noticeReset s) :=
  if_pos h

theorem noticeNext_false {s : State} (h : ∀ f ∈ s.cmdRx.head?, runCommand s.cfg.routes f ≠ .nf) :
    noticeNext s = false := by
  rw [← Bool.not_eq_true, noticeNext_iff]
  exact fun ⟨f, rest, hrx, hf⟩ => h f (by rw [hrx]; rfl) hf

theorem stallRead_eq (s : State) :
    stallRead s = { s with
      pc := .bootWait (if s.cfg.bootStallThreshold < s.stopwatch then .stallReset else .framePoll) } := by
  split
  · next h => exact stallRead_exceeded h
  · next h => exact stallRead_notYet (Nat.le_of_not_lt h)

theorem gateRead_eq (s : State) :
    gateRead s = { s with
      pc := .run (if s.snapshotPending = true ∧ s.cfg.gateThreshold < s.stopwatch then .gateSend
        else .midiDrain) } := by
  unfold gateRead
  simp only [gateOpens_iff]
  split
  · rfl
  · rfl

/-- Settles O6: at each position the turn is the action of that position. -/
theorem stepRunsSelectedOperation : Obligations.StepRunsSelectedOperation := by
  intro s t hturn hawake
  have hinit {p : InitStep} (hpc : s.pc = .init p) := step_at_init hturn hawake hpc
  have hboot {p : BootStep} (hpc : s.pc = .bootWait p) := step_at_bootWait hturn hawake hpc
  have hrun {p : RunStep} (hpc : s.pc = .run p) := step_at_run hturn hawake hpc
  obtain ⟨m, rfl⟩ := hturn.eq_before
  clear hturn hawake
  dsimp only at hinit hboot hrun ⊢
  refine ⟨fun hpc hok => ?initArms, fun hpc hfail => ?initFails, fun hpc => ?initEnds,
    fun hpc hrx => ?noFrame, fun f rest hpc hrx => ⟨fun hf => ?ready, fun hf => ?discard⟩,
    fun hpc => ?stallRead, fun hpc => ?stallReset, fun hpc => ?stallShow, fun hpc hno => ?poll,
    fun f rest hpc hrx hf => ?notice, fun hpc => ?arm, fun hpc => ?keyScan,
    fun u hpc hlatch => ?knobLatch, fun hpc => ?gateRead, fun hpc => ?gateSend⟩
  case initArms => exact ⟨_, rfl, by rw [hinit hpc, initAction, hok]; rfl⟩
  case initFails => rw [hinit hpc, initAction, hfail]; rfl
  case initEnds => exact ⟨_, rfl, by rw [hinit hpc]; rfl⟩
  case noFrame => rw [hboot hpc, bootAction, framePoll_nil hrx]
  case ready => rw [hboot hpc, bootAction, framePoll_ready hrx hf]; rfl
  case discard => rw [hboot hpc, bootAction, framePoll_discard hrx hf]
  case stallRead => rw [hboot hpc, bootAction, stallRead_eq]
  case stallReset => exact ⟨_, rfl, by rw [hboot hpc]; rfl⟩
  case stallShow => exact ⟨_, by rw [hboot hpc, bootAction, stallShow_eq], rfl, rfl, rfl⟩
  case poll => rw [hrun hpc, runAction, pollAction_other (noticeNext_false hno)]; rfl
  case notice =>
    have hnotice : noticeNext t = true := (noticeNext_iff t).mpr ⟨f, rest, hrx, hf⟩
    exact ⟨_, rfl, by rw [hrun hpc, runAction, pollAction_notice hnotice, noticeReset, hrx]; rfl⟩
  case arm => rw [hrun hpc]; rfl
  case keyScan => exact ⟨_, rfl, by rw [hrun hpc]; rfl⟩
  case knobLatch => rw [hrun hpc, runAction, hlatch, andThen_next]
  case gateRead => rw [hrun hpc, runAction, gateRead_eq]
  case gateSend =>
    refine ⟨_, exec_blSnapshot t, ?_⟩
    rw [hrun hpc, runAction, gateSend_eq, knobsFrame_eq, afterSnapshot_blob]
    rfl

end Sys2Proof.Machine
end

section
/-! PROOFS. Whole iterations of the scheduler (45_scheduler.md R261 to R267): each operation by its parts,
and by the steps that compose to it when no other agent moves. -/

namespace Sys2Proof.Machine

/-! ### Sequences -/

theorem andThen_pure (o : Host.Outcome State Fault Refusal) : andThen o .next = o := by
  cases o <;> rfl

/-- Only the states the first part leaves matter to the second. -/
theorem andThen_congr {o : Host.Outcome State Fault Refusal}
    {f g : State → Host.Outcome State Fault Refusal} (h : ∀ u, o = .next u → f u = g u) :
    andThen o f = andThen o g := by
  cases o with
  | next u => exact h u rfl
  | fault r => rfl
  | refused r => rfl

theorem execAll_pair (i j : Instr) (s : State) :
    execAll [i, j] s = andThen (exec i s) (exec j) :=
  andThen_congr fun u _ => andThen_pure (exec j u)

theorem runSteps_one (s : State) : runSteps 1 s = step s :=
  andThen_pure (step s)

theorem runSteps_succ_of_next {s t : State} (h : step s = .next t) (k : Nat) :
    runSteps (k + 1) s = runSteps k t := by
  rw [runSteps, h, andThen_next]

/-! ### MIDI_DRAIN (R265) -/

theorem exec_mdByte (b : Byte) (s : State) : exec (.mdByte b) s = .next (byteStep b s) := rfl

theorem exec_schMidiDrain (s : State) : exec .schMidiDrain s = .next (midiDrain s) := rfl

theorem drainBytes_cons (b : Byte) (rest : List Byte) (s : State) :
    drainBytes (b :: rest) s = drainBytes rest (byteStep b { s with midiRx := rest }) := rfl

theorem byteStep_midiRx (b : Byte) (s : State) : (byteStep b s).midiRx = s.midiRx := by
  rw [byteStep_frame]

theorem byteStep_cfg (b : Byte) (s : State) : (byteStep b s).cfg = s.cfg := by
  rw [byteStep_frame]

theorem fire_with_midiRx (e : MidiEvent) (rx : List Byte) (s : State) :
    fire e { s with midiRx := rx } = { fire e s with midiRx := rx } := by
  rw [fire_eq, fire_eq, handlerBlob_congr e (s := s) (t := { s with midiRx := rx }) rfl rfl]

theorem fireOpt_with_midiRx (e : Option MidiEvent) (rx : List Byte) (s : State) :
    fireOpt e { s with midiRx := rx } = { fireOpt e s with midiRx := rx } := by
  cases e with
  | none => rfl
  | some ev => exact fire_with_midiRx ev rx s

theorem complete_with_midiRx (e b : Byte) (rx : List Byte) (s : State) :
    complete e b { s with midiRx := rx } = { complete e b s with midiRx := rx } := by
  unfold complete
  split
  · exact fireOpt_with_midiRx _ rx s
  · rfl

theorem dataByte_with_midiRx (b : Byte) (rx : List Byte) (s : State) :
    dataByte b { s with midiRx := rx } = { dataByte b s with midiRx := rx } := by
  unfold dataByte
  dsimp only
  split
  · rfl
  · split
    · rw [complete_with_midiRx]
    · rfl

/-- Decoding a byte does not look at the bytes still buffered. -/
theorem byteStep_with_midiRx (b : Byte) (rx : List Byte) (s : State) :
    byteStep b { s with midiRx := rx } = { byteStep b s with midiRx := rx } := by
  unfold byteStep
  split
  · rfl
  · dsimp only
    split
    · rfl
    · unfold immediate
      rw [fireOpt_with_midiRx]
      rfl
    · exact fire_with_midiRx _ rx (toSink .enter (toIdle { s with mode := .passthrough }))
    · exact fire_with_midiRx _ rx (toSink .exit (toIdle { s with mode := .normal }))
    · rfl
    · exact dataByte_with_midiRx b rx s

theorem drainBytes_midiRx {bytes : List Byte} {s : State} (h : s.midiRx = bytes) :
    (drainBytes bytes s).midiRx = [] := by
  induction bytes generalizing s with
  | nil => exact h
  | cons b rest ih =>
    rw [drainBytes_cons]
    exact ih (byteStep_midiRx b _)

/-- The drain is `MD.BYTE` of the buffer's bytes in order, with the buffer emptied. -/
theorem drainBytes_eq_foldl {bytes : List Byte} {s : State} (h : s.midiRx = bytes) :
    drainBytes bytes s = bytes.foldl (fun u b => byteStep b u) { s with midiRx := [] } := by
  induction bytes generalizing s with
  | nil => rw [drainBytes, List.foldl_nil, ← h]
  | cons b rest ih =>
    rw [drainBytes_cons, List.foldl_cons, ih (byteStep_midiRx b _), byteStep_with_midiRx b [] s,
      byteStep_with_midiRx b rest s]

/-- What the drain changes at most; it ends with the buffer empty, at CMD_POLL. -/
theorem midiDrain_frame (s : State) :
    midiDrain s = { s with
      mode := (midiDrain s).mode, pendingEvent := (midiDrain s).pendingEvent
      bytesNeeded := (midiDrain s).bytesNeeded, bytesReceived := (midiDrain s).bytesReceived
      lastDataByte := (midiDrain s).lastDataByte, blob := (midiDrain s).blob
      out := (midiDrain s).out, passthroughSink := (midiDrain s).passthroughSink
      fired := (midiDrain s).fired, midiRx := [], pc := .run .cmdPoll } := by
  rw [← drainBytes_midiRx (s := s) rfl, midiDrain, drainBytes_frame]

/-- Settles O45: the drain's bytes as a fold, which is what the operations in a row are. -/
theorem midiDrainDecodesAll : Obligations.MidiDrainDecodesAll := by
  intro s
  refine ⟨midiDrain s, exec_schMidiDrain s, by rw [midiDrain_frame], by rw [midiDrain_frame], ?bytes⟩
  case bytes =>
    have hpc : (drainBytes s.midiRx s).pc = s.pc := by rw [drainBytes_frame]
    rw [execAll_map_next exec_mdByte, ← drainBytes_eq_foldl rfl, midiDrain, ← hpc]

/-! ### SCH.RUN_ITER by its operations (R264) -/

theorem exec_schRunIter (s : State) :
    exec .schRunIter s = andThen (cmdPoll (midiDrain s)) scanAndGate := rfl

theorem scanAndGate_halted {s : State} (h : s.pc = .halted) : scanAndGate s = .next s :=
  if_pos h

theorem scanAndGate_running {s : State} (h : s.pc ≠ .halted) :
    scanAndGate s = andThen (scanStep s) (fun t => .next (gateStep t)) :=
  if_neg h

/-- A legal configuration and a full sample buffer let SCAN complete (D24). -/
theorem scanStep_next {s : State} (hwf : s.cfg.wf = true) (hsamples : s.adcSample.length = s.cfg.nAdc) :
    ∃ t, scanStep s = .next t := by
  have hchannels : channelsPresent (keyScan s) = true :=
    channelsPresent_of_sizes (s := keyScan s) hwf hsamples
  obtain ⟨t, ht⟩ := knobLatch_next hchannels
  exact ⟨{ t with pc := .run .gate }, by rw [scanStep_eq, ht, andThen_next]⟩

theorem gateStep_pc (s : State) : (gateStep s).pc = .run .midiDrain := by
  rw [gateStep_eq]
  split
  · rfl
  · rfl

/-- Settles O47: the drain and CMD_POLL always complete and keep the sizes that SCAN needs. -/
theorem runIterationIsItsFourSteps : Obligations.RunIterationIsItsFourSteps := by
  intro s hwf hsamples
  obtain ⟨u, hu⟩ := cmdPoll_next (midiDrain s)
  have hfirst : execAll [.schMidiDrain, .schCmdPoll] s = .next u := by
    rw [execAll_pair, exec_schMidiDrain, andThen_next, exec_schCmdPoll, hu]
  rw [exec_schRunIter, hu, andThen_next]
  by_cases hpc : u.pc = .halted
  · exact ⟨u, scanAndGate_halted hpc, u, hfirst, fun _ => rfl, fun hrunning => absurd hpc hrunning⟩
  · have hcfg : u.cfg = s.cfg := by rw [cmdPoll_leaves hu, midiDrain_frame]
    have hadc : u.adcSample = s.adcSample := by rw [cmdPoll_leaves hu, midiDrain_frame]
    obtain ⟨v, hv⟩ := scanStep_next (s := u) (by rwa [hcfg]) (by rwa [hadc, hcfg])
    refine ⟨gateStep v, ?whole, u, hfirst, fun hhalted => absurd hhalted hpc,
      fun _ => ⟨?parts, gateStep_pc v⟩⟩
    case whole => rw [scanAndGate_running hpc, hv, andThen_next]
    case parts =>
      have hscan : exec .schScan u = .next v := hv
      rw [execAll_pair, hscan, andThen_next, exec_schGate]

/-! ### Steps with no other agent -/

/-- No other agent is to move, and the foreground is awake. -/
structure Undisturbed (s : State) : Prop where
  sched : s.sched = []
  awake : s.sleeping = false

theorem Undisturbed.turn {s : State} (h : Undisturbed s) : ForegroundTurn s s :=
  .inl ⟨h.sched, rfl⟩

theorem Undisturbed.step_bootWait {s : State} (h : Undisturbed s) {p : BootStep}
    (hpc : s.pc = .bootWait p) : step s = bootAction p s :=
  step_at_bootWait h.turn h.awake hpc

theorem Undisturbed.step_run {s : State} (h : Undisturbed s) {p : RunStep}
    (hpc : s.pc = .run p) : step s = runAction p s :=
  step_at_run h.turn h.awake hpc

theorem AtDrain.undisturbed {s : State} (h : AtDrain s) : Undisturbed s := ⟨h.sched, h.awake⟩

/-- In `Halted` the foreground takes as many turns as one likes. -/
theorem Undisturbed.runSteps_halted {s : State} (h : Undisturbed s) (hpc : s.pc = .halted) (k : Nat) :
    runSteps k s = .next s := by
  induction k with
  | zero => rfl
  | succ k ih => rw [runSteps_succ_of_next (step_at_halted h.turn h.awake hpc), ih]

/-! ### The steps of MIDI_DRAIN (R265) -/

/-- Under a legal map a step of the drain is `MD.BYTE` of the byte at the head of the buffer. -/
theorem AtDrain.step_byteStep {s : State} (h : AtDrain s) (hwf : s.cfg.status.wf = true) {b : Byte}
    {rest : List Byte} (hrx : s.midiRx = b :: rest) :
    Machine.step s = .next (byteStep b { s with midiRx := rest }) := by
  rw [h.step hrx]
  exact exec_of_encode (s := { s with midiRx := rest }) hwf (encode_decodeByte hwf b)

theorem AtDrain.byteStep {s : State} (h : AtDrain s) (b : Byte) (rest : List Byte) :
    AtDrain (byteStep b { s with midiRx := rest }) := by
  rw [byteStep_frame]
  exact ⟨h.sched, h.awake, h.pc⟩

theorem AtDrain.drainBytes {s : State} (h : AtDrain s) (bytes : List Byte) :
    AtDrain (drainBytes bytes s) := by
  rw [drainBytes_frame]
  exact ⟨h.sched, h.awake, h.pc⟩

theorem AtDrain.runSteps_bytes {bytes : List Byte} {s : State} (h : AtDrain s)
    (hwf : s.cfg.status.wf = true) (hrx : s.midiRx = bytes) :
    runSteps bytes.length s = .next (Machine.drainBytes bytes s) := by
  induction bytes generalizing s with
  | nil => rfl
  | cons b rest ih =>
    have hcfg := byteStep_cfg b { s with midiRx := rest }
    rw [List.length_cons, runSteps_succ_of_next (h.step_byteStep hwf hrx), drainBytes_cons]
    exact ih (h.byteStep b rest) (by rwa [hcfg]) (byteStep_midiRx b _)

/-- One step for each byte and one that ends the drain. -/
theorem AtDrain.runSteps_drain {s : State} (h : AtDrain s) (hwf : s.cfg.status.wf = true) :
    runSteps (s.midiRx.length + 1) s = .next (midiDrain s) := by
  have hend := h.drainBytes s.midiRx
  rw [runSteps_add, h.runSteps_bytes hwf rfl, andThen_next, runSteps_one,
    hend.undisturbed.step_run hend.pc]
  exact drainAction_nil (drainBytes_midiRx rfl)

/-! ### The steps of CMD_POLL (R266) -/

/-- The steps of CMD_POLL: two where it takes a notice, else one. -/
def pollSteps (s : State) : Nat := if noticeNext s then 2 else 1

theorem Undisturbed.runSteps_poll {s : State} (h : Undisturbed s) (hpc : s.pc = .run .cmdPoll) :
    runSteps (pollSteps s) s = cmdPoll s := by
  cases hnotice : noticeNext s with
  | true =>
    have hfirst : step s = .next (noticeReset s) := by
      rw [h.step_run hpc, runAction, pollAction_notice hnotice]
    have hreset : Undisturbed (noticeReset s) := ⟨h.sched, h.awake⟩
    rw [pollSteps, if_pos hnotice, runSteps_succ_of_next hfirst, runSteps_one,
      hreset.step_run (p := .nfArm) rfl, cmdPoll_notice hnotice]
    rfl
  | false =>
    rw [pollSteps, if_neg (by simp [hnotice]), runSteps_one, h.step_run hpc, runAction,
      pollAction_other hnotice]

theorem Undisturbed.cmdPoll {s u : State} (h : Undisturbed s) (hpoll : cmdPoll s = .next u) :
    Undisturbed u := by
  rw [cmdPoll_leaves hpoll]
  exact ⟨h.sched, h.awake⟩

/-- A notice resets the stopwatch; no other command touches what GATE tests. -/
theorem gateOpens_after_cmdPoll {s u : State} (hpoll : cmdPoll s = .next u) :
    gateOpens u = (!noticeNext s && gateOpens s) := by
  cases hnotice : noticeNext s with
  | true =>
    rw [cmdPoll_notice hnotice] at hpoll
    cases hpoll
    exact gateOpens_noticeArm_noticeReset s
  | false => exact gateOpens_cmdPoll hnotice hpoll

/-! ### The steps of SCAN and GATE, and of the iteration (R264) -/

theorem Undisturbed.runSteps_scan {s : State} (h : Undisturbed s) (hpc : s.pc = .run .scan) :
    runSteps 2 s = scanStep s := by
  have hfirst : step s = .next { keyScan s with pc := .run .knobLatch } := h.step_run hpc
  have hlatch : Undisturbed { keyScan s with pc := .run .knobLatch } := ⟨h.sched, h.awake⟩
  rw [runSteps_succ_of_next hfirst, runSteps_one, hlatch.step_run (p := .knobLatch) rfl, scanStep_eq]
  show andThen (knobLatch _) _ = _
  rw [knobLatch_pc]
  cases knobLatch (keyScan s) <;> rfl

/-- The steps of GATE: two where its test holds, else one. -/
def gateSteps (s : State) : Nat := if gateOpens s then 2 else 1

theorem Undisturbed.runSteps_gate {s : State} (h : Undisturbed s) (hpc : s.pc = .run .gate) :
    runSteps (gateSteps s) s = .next (gateStep s) := by
  have hread : step s = .next (gateRead s) := h.step_run hpc
  cases hopen : gateOpens s with
  | true =>
    rw [gateRead, if_pos hopen] at hread
    have hsend : Undisturbed { s with pc := .run .gateSend } := ⟨h.sched, h.awake⟩
    rw [gateSteps, if_pos hopen, runSteps_succ_of_next hread, runSteps_one,
      hsend.step_run (p := .gateSend) rfl, runAction, gateStep_open hopen, gateSend_eq, gateSend_eq]
    rfl
  | false =>
    rw [gateRead, if_neg (by simp [hopen])] at hread
    rw [gateSteps, if_neg (by simp [hopen]), runSteps_one, hread, gateStep_closed hopen]

/-- SCAN and GATE in steps, or nothing once the block has halted. -/
theorem Undisturbed.runSteps_scanAndGate {s : State} (h : Undisturbed s)
    (hpc : s.pc = .halted ∨ s.pc = .run .scan) :
    runSteps (2 + gateSteps s) s = scanAndGate s := by
  rcases hpc with hpc | hpc
  · rw [h.runSteps_halted hpc, scanAndGate_halted hpc]
  · rw [runSteps_add, h.runSteps_scan hpc, scanAndGate_running (by simp [hpc])]
    refine andThen_congr fun v hv => ?_
    have hleaves := scanStep_leaves hv
    have hgate : gateSteps v = gateSteps s := by rw [hleaves]; rfl
    have hv : Undisturbed v := by rw [hleaves]; exact ⟨h.sched, h.awake⟩
    rw [← hgate]
    exact hv.runSteps_gate (by rw [hleaves])

/-- The steps of a whole Run iteration. -/
theorem AtDrain.runSteps_iteration {s : State} (h : AtDrain s) (hwf : s.cfg.status.wf = true) :
    runSteps (s.midiRx.length + 1 + (pollSteps s +
      (2 + if !noticeNext s && gateOpens s then 2 else 1))) s = exec .schRunIter s := by
  have hframe := midiDrain_frame s
  have hdrained : Undisturbed (midiDrain s) := by rw [hframe]; exact ⟨h.sched, h.awake⟩
  have hpc : (midiDrain s).pc = .run .cmdPoll := by rw [hframe]
  have hnotice : noticeNext (midiDrain s) = noticeNext s := by rw [hframe]; rfl
  have hgate : gateOpens (midiDrain s) = gateOpens s := by rw [hframe]; rfl
  have hpoll : pollSteps s = pollSteps (midiDrain s) := by rw [pollSteps, pollSteps, hnotice]
  rw [runSteps_add, h.runSteps_drain hwf, andThen_next, runSteps_add, hpoll,
    hdrained.runSteps_poll hpc, exec_schRunIter]
  refine andThen_congr fun u hu => ?_
  rw [← hnotice, ← hgate, ← gateOpens_after_cmdPoll hu]
  exact (hdrained.cmdPoll hu).runSteps_scanAndGate (cmdPoll_pc hu)

/-- Settles O48: the counts of `AtDrain.runSteps_iteration` in its two cases. -/
theorem runIterationIsStepByStep : Obligations.RunIterationIsStepByStep := by
  intro s hwf hsched hawake hpc
  have hsteps := AtDrain.runSteps_iteration ⟨hsched, hawake, hpc⟩ hwf
  rw [pollSteps] at hsteps
  refine ⟨fun hsix => ?six, fun hother hclosed => ?five⟩
  case six =>
    rw [← noticeNext_iff, ← gateOpens_iff] at hsix
    cases hnotice : noticeNext s with
    | true => simpa [hnotice] using hsteps
    | false =>
      have hopen : gateOpens s = true := hsix.resolve_left (by simp [hnotice])
      simpa [hnotice, hopen] using hsteps
  case five =>
    have hnotice : noticeNext s = false := by
      rw [← Bool.not_eq_true, noticeNext_iff]
      exact fun ⟨f, rest, hrx, hf⟩ => hother f rest hrx hf
    have hgate : gateOpens s = false := (gateOpens_false s).mpr hclosed
    simpa [hnotice, hgate] using hsteps

/-! ### SCH.BOOT_ITER (R261, R262) -/

theorem exec_schBootIter (s : State) : exec .schBootIter s = bootIteration s := rfl

theorem bootIteration_ready {s : State} {f : Frame} {rest : List Frame} (hrx : s.cmdRx = f :: rest)
    (hf : f.address = "/ready") :
    bootIteration s = .next { s with cmdRx := rest, pc := .run .midiDrain } := by
  rw [bootIteration, framePoll_ready hrx hf]
  rfl

/-- The state in which FRAME_POLL leaves Boot-Wait waiting. -/
def stillWaiting (s : State) : State := { s with cmdRx := s.cmdRx.tail, pc := .bootWait .stallCheck }

theorem bootIteration_waits {s : State} (h : ∀ f ∈ s.cmdRx.head?, f.address ≠ "/ready") :
    bootIteration s = .next (stallCheck (stillWaiting s)) := by
  rw [bootIteration, framePoll_waits h]
  rfl

/-- Settles O43: the four outcomes of FRAME_POLL and STALL_CHECK. (The name `bootIteration` is the model's
function.) -/
theorem bootIteration_schBootIter : Obligations.BootIteration := by
  intro s
  refine ⟨fun f rest hrx hf => bootIteration_ready hrx hf, fun hwaits => ?waits⟩
  rw [exec_schBootIter, bootIteration_waits hwaits]
  refine ⟨_, rfl, ?_⟩
  rcases Nat.lt_or_ge s.cfg.bootStallThreshold s.stopwatch with hexceeded | hnotYet
  · rw [stallCheck_exceeded (s := stillWaiting s) hexceeded, stallShow_eq, stallReset_eq]
    exact ⟨rfl, rfl, fun _ => ⟨rfl, rfl, rfl⟩, fun hle => absurd hexceeded (Nat.not_lt.mpr hle), rfl⟩
  · rw [stallCheck_notYet (s := stillWaiting s) hnotYet]
    exact ⟨rfl, rfl, fun hlt => absurd hlt (Nat.not_lt.mpr hnotYet), fun _ => ⟨rfl, rfl, rfl⟩, rfl⟩

/-- Settles O49: FRAME_POLL, then the read, the reset and the rest of STALL_CHECK one at a time. -/
theorem bootIterationIsStepByStep : Obligations.BootIterationIsStepByStep := by
  intro s hsched hawake hpc
  have hquiet : Undisturbed s := ⟨hsched, hawake⟩
  have hpoll : step s = framePoll s := hquiet.step_bootWait hpc
  refine ⟨fun f rest hrx hf => ?ready, fun hwaits => ?waits⟩
  case ready =>
    rw [runSteps_one, hpoll, framePoll_ready hrx hf, exec_schBootIter, bootIteration_ready hrx hf]
  case waits =>
    have hfirst : step s = .next (stillWaiting s) := by rw [hpoll, framePoll_waits hwaits]; rfl
    have hwaiting : Undisturbed (stillWaiting s) := ⟨hsched, hawake⟩
    have hread : step (stillWaiting s) = .next (stallRead (stillWaiting s)) :=
      hwaiting.step_bootWait rfl
    rw [exec_schBootIter, bootIteration_waits hwaits]
    refine ⟨fun hexceeded => ?four, fun hnotYet => ?two⟩
    case four =>
      rw [stallRead_exceeded (s := stillWaiting s) hexceeded] at hread
      have hreset : Undisturbed { stillWaiting s with pc := .bootWait .stallReset } :=
        ⟨hsched, hawake⟩
      have hshow : Undisturbed (stallReset (stillWaiting s)) := ⟨hsched, hawake⟩
      rw [runSteps_succ_of_next hfirst, runSteps_succ_of_next hread,
        runSteps_succ_of_next (hreset.step_bootWait (p := .stallReset) rfl), runSteps_one,
        stallCheck_exceeded (s := stillWaiting s) hexceeded]
      exact hshow.step_bootWait (p := .stallShow) rfl
    case two =>
      rw [runSteps_succ_of_next hfirst, runSteps_one, hread,
        stallRead_notYet (s := stillWaiting s) hnotYet, stallCheck_notYet (s := stillWaiting s) hnotYet]

end Sys2Proof.Machine
end
